-- ==== Sys2Proof/Word.lean ====
section
/-! DEFINITION. The word types of CORE (spec/00_scope.md R6, R8; spec/10_state.md R15) and nothing else. -/

namespace Sys2Proof

/-- A memory byte, a general register or a timer: 8 bits (R15, R24, R25, R29). -/
abbrev Byte := BitVec 8

/-- An instruction word, the index register, the program counter or a stack entry: 16 bits (R18, R21, R22, R59). -/
abbrev Word := BitVec 16

/-- A 4-bit field of a word that is not a register number: the family, or `n` (R59). -/
abbrev Nibble := BitVec 4

/-- The 12-bit address field `nnn` (R59). -/
abbrev Addr12 := BitVec 12

/-- The number of a general register, of a stack entry or of a key: 0 to 15 (R15, R22, R27). -/
abbrev Reg := Fin 16

/-- `VF`, the register that also receives flags (R16). -/
abbrev vf : Reg := 15

/-- The number of a framebuffer cell, `x + 64*y` (R26). -/
abbrev Cell := Fin 2048

end Sys2Proof
end

