-- ==== Sys2Proof/Syntax.lean ====
section
/-! DEFINITION. The 35 instructions of CORE, one constructor per row of spec/opcode_table.json, in its order
(spec/30_encoding.md R59, R66). A field that the spec decodes and then ignores (`y` of 8XY6 and 8XYE, `n` of 5XYN
and 9XYN, `nnn` of 0NNN) is kept, so that every recognized word has exactly one instruction. -/

namespace Sys2Proof

/-- One instruction of CORE (R66). The comment on each constructor is its pattern and its mnemonic. -/
inductive Instr where
  /-- 0NNN, `SYS nnn` (R73); not 00E0 or 00EE. -/
  | sys (nnn : Addr12)
  /-- 00E0, `CLS` (R106). -/
  | cls
  /-- 00EE, `RET` (R76). -/
  | ret
  /-- 1NNN, `JP nnn` (R74). -/
  | jp (nnn : Addr12)
  /-- 2NNN, `CALL nnn` (R75). -/
  | call (nnn : Addr12)
  /-- 3XNN, `SE Vx, nn` (R78). -/
  | seImm (x : Reg) (nn : Byte)
  /-- 4XNN, `SNE Vx, nn` (R79). -/
  | sneImm (x : Reg) (nn : Byte)
  /-- 5XYN, `SE Vx, Vy` (R80); `n` is ignored. -/
  | seReg (x y : Reg) (n : Nibble)
  /-- 6XNN, `LD Vx, nn` (R84). -/
  | ldImm (x : Reg) (nn : Byte)
  /-- 7XNN, `ADD Vx, nn` (R85). -/
  | addImm (x : Reg) (nn : Byte)
  /-- 8XY0, `LD Vx, Vy` (R86). -/
  | ldReg (x y : Reg)
  /-- 8XY1, `OR Vx, Vy` (R87). -/
  | orReg (x y : Reg)
  /-- 8XY2, `AND Vx, Vy` (R88). -/
  | andReg (x y : Reg)
  /-- 8XY3, `XOR Vx, Vy` (R89). -/
  | xorReg (x y : Reg)
  /-- 8XY4, `ADD Vx, Vy` (R90). -/
  | addReg (x y : Reg)
  /-- 8XY5, `SUB Vx, Vy` (R91). -/
  | subReg (x y : Reg)
  /-- 8XY6, `SHR Vx` (R92); `y` is ignored. -/
  | shr (x y : Reg)
  /-- 8XY7, `SUBN Vx, Vy` (R93). -/
  | subnReg (x y : Reg)
  /-- 8XYE, `SHL Vx` (R94); `y` is ignored. -/
  | shl (x y : Reg)
  /-- 9XYN, `SNE Vx, Vy` (R81); `n` is ignored. -/
  | sneReg (x y : Reg) (n : Nibble)
  /-- ANNN, `LD I, nnn` (R98). -/
  | ldI (nnn : Addr12)
  /-- BNNN, `JP V0, nnn` (R77). -/
  | jpV0 (nnn : Addr12)
  /-- CXNN, `RND Vx, nn` (R95). -/
  | rnd (x : Reg) (nn : Byte)
  /-- DXYN, `DRW Vx, Vy, n` (R107). -/
  | drw (x y : Reg) (n : Nibble)
  /-- EX9E, `SKP Vx` (R113). -/
  | skp (x : Reg)
  /-- EXA1, `SKNP Vx` (R114). -/
  | sknp (x : Reg)
  /-- FX07, `LD Vx, DT` (R116). -/
  | ldVxDT (x : Reg)
  /-- FX0A, `LD Vx, K` (R112). -/
  | ldVxK (x : Reg)
  /-- FX15, `LD DT, Vx` (R117). -/
  | ldDTVx (x : Reg)
  /-- FX18, `LD ST, Vx` (R118). -/
  | ldSTVx (x : Reg)
  /-- FX1E, `ADD I, Vx` (R99). -/
  | addI (x : Reg)
  /-- FX29, `LD F, Vx` (R100). -/
  | ldF (x : Reg)
  /-- FX33, `LD B, Vx` (R101). -/
  | ldB (x : Reg)
  /-- FX55, `LD [I], Vx` (R102). -/
  | storeRegs (x : Reg)
  /-- FX65, `LD Vx, [I]` (R103). -/
  | loadRegs (x : Reg)
  deriving DecidableEq, Repr

end Sys2Proof
end

