-- ==== Sys2Proof/Decode.lean ====
section
/-! DEFINITION. The decoder (spec/30_encoding.md R59 to R69), then the encoder, then the opcode map of R66 as rows.
The decode tree is R61 to R65; the rows are R66, kept apart so that the two can be held against each other. -/

namespace Sys2Proof

/-! The fields of a word (R59). -/

/-- `fam`, bits 15 to 12. -/
def famOf (w : Word) : Nibble := w.extractLsb' 12 4
/-- `x`, bits 11 to 8. -/
def xOf (w : Word) : Reg := (w.extractLsb' 8 4).toFin
/-- `y`, bits 7 to 4. -/
def yOf (w : Word) : Reg := (w.extractLsb' 4 4).toFin
/-- `n`, bits 3 to 0. -/
def nOf (w : Word) : Nibble := w.extractLsb' 0 4
/-- `nn`, bits 7 to 0. -/
def nnOf (w : Word) : Byte := w.extractLsb' 0 8
/-- `nnn`, bits 11 to 0. -/
def nnnOf (w : Word) : Addr12 := w.extractLsb' 0 12

/-- Why bytes are no instruction. The first three are the three sets of R67. -/
inductive Reject where
  /-- Family 8 with a sub-opcode `n` that R63 does not list. -/
  | unrecognized8 (n : Nibble)
  /-- Family E with a low byte that R64 does not list. -/
  | unrecognizedE (nn : Byte)
  /-- Family F with a low byte that R65 does not list. -/
  | unrecognizedF (nn : Byte)
  /-- Fewer than the two bytes of a word (R69). A fetch always gives two. -/
  | truncated
  deriving DecidableEq, Repr

/-- R62: family 0 decodes on the whole word. -/
def decode0 (w : Word) : Instr :=
  if w = 0x00E0#16 then .cls
  else if w = 0x00EE#16 then .ret
  else .sys (nnnOf w)

/-- R63: family 8 decodes on `n`. -/
def decode8 (w : Word) : Except Reject Instr :=
  match nOf w with
  | 0x0#4 => .ok (.ldReg (xOf w) (yOf w))
  | 0x1#4 => .ok (.orReg (xOf w) (yOf w))
  | 0x2#4 => .ok (.andReg (xOf w) (yOf w))
  | 0x3#4 => .ok (.xorReg (xOf w) (yOf w))
  | 0x4#4 => .ok (.addReg (xOf w) (yOf w))
  | 0x5#4 => .ok (.subReg (xOf w) (yOf w))
  | 0x6#4 => .ok (.shr (xOf w) (yOf w))
  | 0x7#4 => .ok (.subnReg (xOf w) (yOf w))
  | 0xE#4 => .ok (.shl (xOf w) (yOf w))
  | n => .error (.unrecognized8 n)

/-- R64: family E decodes on `nn`. -/
def decodeE (w : Word) : Except Reject Instr :=
  match nnOf w with
  | 0x9E#8 => .ok (.skp (xOf w))
  | 0xA1#8 => .ok (.sknp (xOf w))
  | nn => .error (.unrecognizedE nn)

/-- R65: family F decodes on `nn`. -/
def decodeF (w : Word) : Except Reject Instr :=
  match nnOf w with
  | 0x07#8 => .ok (.ldVxDT (xOf w))
  | 0x0A#8 => .ok (.ldVxK (xOf w))
  | 0x15#8 => .ok (.ldDTVx (xOf w))
  | 0x18#8 => .ok (.ldSTVx (xOf w))
  | 0x1E#8 => .ok (.addI (xOf w))
  | 0x29#8 => .ok (.ldF (xOf w))
  | 0x33#8 => .ok (.ldB (xOf w))
  | 0x55#8 => .ok (.storeRegs (xOf w))
  | 0x65#8 => .ok (.loadRegs (xOf w))
  | nn => .error (.unrecognizedF nn)

/-- R61: decode looks at the family first. Total on every word (R72). -/
def decodeWord (w : Word) : Except Reject Instr :=
  match famOf w with
  | 0x0#4 => .ok (decode0 w)
  | 0x1#4 => .ok (.jp (nnnOf w))
  | 0x2#4 => .ok (.call (nnnOf w))
  | 0x3#4 => .ok (.seImm (xOf w) (nnOf w))
  | 0x4#4 => .ok (.sneImm (xOf w) (nnOf w))
  | 0x5#4 => .ok (.seReg (xOf w) (yOf w) (nOf w))
  | 0x6#4 => .ok (.ldImm (xOf w) (nnOf w))
  | 0x7#4 => .ok (.addImm (xOf w) (nnOf w))
  | 0x8#4 => decode8 w
  | 0x9#4 => .ok (.sneReg (xOf w) (yOf w) (nOf w))
  | 0xA#4 => .ok (.ldI (nnnOf w))
  | 0xB#4 => .ok (.jpV0 (nnnOf w))
  | 0xC#4 => .ok (.rnd (xOf w) (nnOf w))
  | 0xD#4 => .ok (.drw (xOf w) (yOf w) (nOf w))
  | 0xE#4 => decodeE w
  | _ => decodeF w

/-- R40: the byte at the lower address is bits 15 to 8 of the word. -/
def wordOfBytes (hi lo : Byte) : Word := (hi ++ lo).cast rfl
/-- The byte of a word that stands at the lower address (R40). -/
def hiByte (w : Word) : Byte := w.extractLsb' 8 8
/-- The byte of a word that stands at the higher address (R40). -/
def loByte (w : Word) : Byte := w.extractLsb' 0 8

/-- The decoder on bytes: it reads exactly two (R69) and gives back the rest. -/
def decode (bs : List Byte) : Except Reject (Instr × List Byte) :=
  match bs with
  | hi :: lo :: rest =>
    match decodeWord (wordOfBytes hi lo) with
    | .ok i => .ok (i, rest)
    | .error r => .error r
  | [_] => .error .truncated
  | [] => .error .truncated

/-! The encoder: the word of each pattern of R66, its fields placed as R59 places them. -/

/-- A register number as a 4-bit field. -/
def regBits (r : Reg) : Nibble := BitVec.ofFin r
/-- `fam ++ nnn`. -/
def wordNNN (fam : Nibble) (nnn : Addr12) : Word := (fam ++ nnn).cast rfl
/-- `fam ++ x ++ nn`. -/
def wordXNN (fam : Nibble) (x : Reg) (nn : Byte) : Word := (fam ++ regBits x ++ nn).cast rfl
/-- `fam ++ x ++ y ++ n`. -/
def wordXYN (fam : Nibble) (x y : Reg) (n : Nibble) : Word := (fam ++ regBits x ++ regBits y ++ n).cast rfl

/-- R66: the word of an instruction. -/
def encode (i : Instr) : Word :=
  match i with
  | .sys nnn => wordNNN 0x0#4 nnn
  | .cls => 0x00E0#16
  | .ret => 0x00EE#16
  | .jp nnn => wordNNN 0x1#4 nnn
  | .call nnn => wordNNN 0x2#4 nnn
  | .seImm x nn => wordXNN 0x3#4 x nn
  | .sneImm x nn => wordXNN 0x4#4 x nn
  | .seReg x y n => wordXYN 0x5#4 x y n
  | .ldImm x nn => wordXNN 0x6#4 x nn
  | .addImm x nn => wordXNN 0x7#4 x nn
  | .ldReg x y => wordXYN 0x8#4 x y 0x0#4
  | .orReg x y => wordXYN 0x8#4 x y 0x1#4
  | .andReg x y => wordXYN 0x8#4 x y 0x2#4
  | .xorReg x y => wordXYN 0x8#4 x y 0x3#4
  | .addReg x y => wordXYN 0x8#4 x y 0x4#4
  | .subReg x y => wordXYN 0x8#4 x y 0x5#4
  | .shr x y => wordXYN 0x8#4 x y 0x6#4
  | .subnReg x y => wordXYN 0x8#4 x y 0x7#4
  | .shl x y => wordXYN 0x8#4 x y 0xE#4
  | .sneReg x y n => wordXYN 0x9#4 x y n
  | .ldI nnn => wordNNN 0xA#4 nnn
  | .jpV0 nnn => wordNNN 0xB#4 nnn
  | .rnd x nn => wordXNN 0xC#4 x nn
  | .drw x y n => wordXYN 0xD#4 x y n
  | .skp x => wordXNN 0xE#4 x 0x9E#8
  | .sknp x => wordXNN 0xE#4 x 0xA1#8
  | .ldVxDT x => wordXNN 0xF#4 x 0x07#8
  | .ldVxK x => wordXNN 0xF#4 x 0x0A#8
  | .ldDTVx x => wordXNN 0xF#4 x 0x15#8
  | .ldSTVx x => wordXNN 0xF#4 x 0x18#8
  | .addI x => wordXNN 0xF#4 x 0x1E#8
  | .ldF x => wordXNN 0xF#4 x 0x29#8
  | .ldB x => wordXNN 0xF#4 x 0x33#8
  | .storeRegs x => wordXNN 0xF#4 x 0x55#8
  | .loadRegs x => wordXNN 0xF#4 x 0x65#8

/-- An instruction's bytes in the order memory holds them (R40). -/
def encodeBytes (i : Instr) : List Byte := [hiByte (encode i), loByte (encode i)]

/-! The opcode map of R66, row by row. -/

/-- One row of R66: its mask and its match. -/
structure OpcodeRow where
  mask : Word
  pattern : Word
  deriving DecidableEq, Repr

/-- A row matches a word when the word agrees with the pattern on the mask (R66). -/
def OpcodeRow.matches (r : OpcodeRow) (w : Word) : Bool := w &&& r.mask == r.pattern

/-- The row of R66 that an instruction belongs to. -/
def rowOf (i : Instr) : OpcodeRow :=
  match i with
  | .sys _ => ⟨0xF000, 0x0000⟩
  | .cls => ⟨0xFFFF, 0x00E0⟩
  | .ret => ⟨0xFFFF, 0x00EE⟩
  | .jp _ => ⟨0xF000, 0x1000⟩
  | .call _ => ⟨0xF000, 0x2000⟩
  | .seImm _ _ => ⟨0xF000, 0x3000⟩
  | .sneImm _ _ => ⟨0xF000, 0x4000⟩
  | .seReg _ _ _ => ⟨0xF000, 0x5000⟩
  | .ldImm _ _ => ⟨0xF000, 0x6000⟩
  | .addImm _ _ => ⟨0xF000, 0x7000⟩
  | .ldReg _ _ => ⟨0xF00F, 0x8000⟩
  | .orReg _ _ => ⟨0xF00F, 0x8001⟩
  | .andReg _ _ => ⟨0xF00F, 0x8002⟩
  | .xorReg _ _ => ⟨0xF00F, 0x8003⟩
  | .addReg _ _ => ⟨0xF00F, 0x8004⟩
  | .subReg _ _ => ⟨0xF00F, 0x8005⟩
  | .shr _ _ => ⟨0xF00F, 0x8006⟩
  | .subnReg _ _ => ⟨0xF00F, 0x8007⟩
  | .shl _ _ => ⟨0xF00F, 0x800E⟩
  | .sneReg _ _ _ => ⟨0xF000, 0x9000⟩
  | .ldI _ => ⟨0xF000, 0xA000⟩
  | .jpV0 _ => ⟨0xF000, 0xB000⟩
  | .rnd _ _ => ⟨0xF000, 0xC000⟩
  | .drw _ _ _ => ⟨0xF000, 0xD000⟩
  | .skp _ => ⟨0xF0FF, 0xE09E⟩
  | .sknp _ => ⟨0xF0FF, 0xE0A1⟩
  | .ldVxDT _ => ⟨0xF0FF, 0xF007⟩
  | .ldVxK _ => ⟨0xF0FF, 0xF00A⟩
  | .ldDTVx _ => ⟨0xF0FF, 0xF015⟩
  | .ldSTVx _ => ⟨0xF0FF, 0xF018⟩
  | .addI _ => ⟨0xF0FF, 0xF01E⟩
  | .ldF _ => ⟨0xF0FF, 0xF029⟩
  | .ldB _ => ⟨0xF0FF, 0xF033⟩
  | .storeRegs _ => ⟨0xF0FF, 0xF055⟩
  | .loadRegs _ => ⟨0xF0FF, 0xF065⟩

/-- The 35 rows of R66 in its order. -/
def opcodeMap : List OpcodeRow :=
  [⟨0xF000, 0x0000⟩, ⟨0xFFFF, 0x00E0⟩, ⟨0xFFFF, 0x00EE⟩, ⟨0xF000, 0x1000⟩, ⟨0xF000, 0x2000⟩,
   ⟨0xF000, 0x3000⟩, ⟨0xF000, 0x4000⟩, ⟨0xF000, 0x5000⟩, ⟨0xF000, 0x6000⟩, ⟨0xF000, 0x7000⟩] ++
  [⟨0xF00F, 0x8000⟩, ⟨0xF00F, 0x8001⟩, ⟨0xF00F, 0x8002⟩, ⟨0xF00F, 0x8003⟩, ⟨0xF00F, 0x8004⟩,
   ⟨0xF00F, 0x8005⟩, ⟨0xF00F, 0x8006⟩, ⟨0xF00F, 0x8007⟩, ⟨0xF00F, 0x800E⟩, ⟨0xF000, 0x9000⟩] ++
  [⟨0xF000, 0xA000⟩, ⟨0xF000, 0xB000⟩, ⟨0xF000, 0xC000⟩, ⟨0xF000, 0xD000⟩, ⟨0xF0FF, 0xE09E⟩,
   ⟨0xF0FF, 0xE0A1⟩] ++
  [⟨0xF0FF, 0xF007⟩, ⟨0xF0FF, 0xF00A⟩, ⟨0xF0FF, 0xF015⟩, ⟨0xF0FF, 0xF018⟩, ⟨0xF0FF, 0xF01E⟩,
   ⟨0xF0FF, 0xF029⟩, ⟨0xF0FF, 0xF033⟩, ⟨0xF0FF, 0xF055⟩, ⟨0xF0FF, 0xF065⟩]

/-- The instruction the decoder reads from an instruction whose bits are `w`, numbered as
spec/opcode_table.json numbers them: every CORE instruction is one 16-bit word (R69), of which the high byte
stands at the lower address (R40). -/
def decodeTableWord (nbits w : Nat) : Option Instr :=
  let word : Word := BitVec.ofNat 16 (w % 2 ^ nbits)
  match decode [hiByte word, loByte word] with
  | .ok (i, _) => some i
  | .error _ => none

end Sys2Proof
end

