-- ==== Sys2Proof/Config.lean ====
section
/-! DEFINITION. The five implementation parameters of CORE (spec/00_scope.md R6, R7; spec/92_eei_decisions.md,
"Named parameters left to the model") and the one free value, the random source. The default configuration is
`defaultConfig` in Sys2Proof/Machine/Params.lean. -/

namespace Sys2Proof

/-- `STACK_POLICY` (R6, decision D6). -/
inductive StackPolicy where
  /-- A CALL on a full stack and a RET on an empty one raise a report and do nothing else but advance (the default). -/
  | report
  /-- The stack pointer changes modulo 16 and nothing is reported. -/
  | wrap
  deriving DecidableEq, Repr

/-- `KEYWAIT_SCAN_LIMIT`, which is 15 or 16 (R6, decision D14). -/
inductive KeywaitScanLimit where
  /-- 15: key 15 is never scanned (the default). -/
  | fifteen
  /-- 16: every key is scanned. -/
  | sixteen
  deriving DecidableEq, Repr

/-- The limit as the number R112 compares a key with. -/
def KeywaitScanLimit.value : KeywaitScanLimit → Nat
  | .fifteen => 15
  | .sixteen => 16

/-- `LOAD_OVERSIZE` (R6, R51, decision D19). -/
inductive LoadOversize where
  /-- An image of more than 3584 bytes is refused and nothing is written (the default). -/
  | reject
  /-- The first 3584 bytes of such an image are written. -/
  | truncate
  deriving DecidableEq, Repr

/-- R38's `Config`: every parameter that 00_scope.md R6 marks as a decision, each a named field (R7). -/
structure Config where
  /-- `FONT_BASE`, 0x000 to 0x1B0, so that the 80 font bytes end below 0x200. -/
  fontBase : Fin 0x1B1
  /-- `STACK_POLICY`. -/
  stackPolicy : StackPolicy
  /-- `KEYWAIT_SCAN_LIMIT`. -/
  keywaitScanLimit : KeywaitScanLimit
  /-- `BLOCK_INCREMENTS_I`. -/
  blockIncrementsI : Bool
  /-- `LOAD_OVERSIZE`. -/
  loadOversize : LoadOversize
  deriving DecidableEq, Repr

/-- The byte on the `rnd` port at the `k`-th draw for which the host's byte is not given: a free value, which
nothing constrains (R55, R95: "A model must treat it as an unconstrained draw and not as a fixed sequence").
Log entry 3. -/
opaque Config.freeRnd : Nat → Byte

end Sys2Proof
end

