-- ==== Sys2Proof/Machine/Params.lean ====
section
/-! DEFINITION. The values that fix a CORE: the default configuration, the memory map and the font
(spec/00_scope.md R6; spec/20_memory.md R46, R47). -/

namespace Sys2Proof.Machine

/-- The default of every parameter (R6): "The default is the configuration every rule and every test vector in this
spec assumes." -/
def defaultConfig : Config :=
  { fontBase := 0x000
    stackPolicy := .report
    keywaitScanLimit := .fifteen
    blockIncrementsI := false
    loadOversize := .reject }

/-- `MEM_SIZE` (R6, R39). -/
def memSize : Nat := 0x1000

/-- `PROGRAM_BASE`, the load address and the reset `pc` (R6, R46, R139). -/
def programBase : Nat := 0x200

/-- The most bytes a program image may have: 4096 - 512 (R51). -/
def maxImage : Nat := memSize - programBase

/-- The glyphs of the digits 0 to 7 (R47). -/
def fontLow : List Byte :=
  [0xF0, 0x90, 0x90, 0x90, 0xF0] ++ [0x20, 0x60, 0x20, 0x20, 0x70] ++
  [0xF0, 0x10, 0xF0, 0x80, 0xF0] ++ [0xF0, 0x10, 0xF0, 0x10, 0xF0] ++
  [0x90, 0x90, 0xF0, 0x10, 0x10] ++ [0xF0, 0x80, 0xF0, 0x10, 0xF0] ++
  [0xF0, 0x80, 0xF0, 0x90, 0xF0] ++ [0xF0, 0x10, 0x20, 0x40, 0x40]

/-- The glyphs of the digits 8 to F (R47). -/
def fontHigh : List Byte :=
  [0xF0, 0x90, 0xF0, 0x90, 0xF0] ++ [0xF0, 0x90, 0xF0, 0x10, 0xF0] ++
  [0xF0, 0x90, 0xF0, 0x90, 0x90] ++ [0xE0, 0x90, 0xE0, 0x90, 0xE0] ++
  [0xF0, 0x80, 0x80, 0x80, 0xF0] ++ [0xE0, 0x90, 0x90, 0x90, 0xE0] ++
  [0xF0, 0x80, 0xF0, 0x80, 0xF0] ++ [0xF0, 0x80, 0xF0, 0x80, 0x80]

/-- The 80 font bytes, glyph after glyph (R47). -/
def fontBytes : List Byte := fontLow ++ fontHigh

/-- What memory holds at reset (R36, R138), which is also what an address that memory does not list reads as: the
font at `FONT_BASE .. FONT_BASE + 79` and 0 everywhere else. -/
def resetByte (fontBase : Nat) (a : Nat) : Byte :=
  if fontBase ≤ a ∧ a < fontBase + 80 then fontBytes.getD (a - fontBase) 0 else 0

end Sys2Proof.Machine
end

