-- ==== Sys2Proof/Machine/Memory.lean ====
section
/-! DEFINITION. The memory `M[0..4095]` (spec/10_state.md R29; spec/20_memory.md R39) as a list of address and byte
pairs in one canonical form. The address clamp is not here: it is an operand form (Machine/Operands.lean). -/

namespace Sys2Proof.Machine

/-- The bytes that differ from the reset contents, by rising address. -/
abbrev Memory := List Host.Cell

/-- The listed byte at an address. -/
def Memory.find (m : Memory) (a : Nat) : Option Byte :=
  match m with
  | [] => none
  | (k, v) :: rest => if k = a then some v else Memory.find rest a

/-- The byte `M[a]` (R29); an unlisted address reads as the reset contents. -/
def Memory.read (fontBase : Nat) (m : Memory) (a : Nat) : Byte :=
  match m.find a with
  | some v => v
  | none => resetByte fontBase a

/-- The list without an address. -/
def Memory.drop (m : Memory) (a : Nat) : Memory :=
  match m with
  | [] => []
  | (k, v) :: rest => if k = a then Memory.drop rest a else (k, v) :: Memory.drop rest a

/-- The list with a pair put in its place. -/
def Memory.put (m : Memory) (a : Nat) (b : Byte) : Memory :=
  match m with
  | [] => [(a, b)]
  | (k, v) :: rest =>
    if a < k then (a, b) :: (k, v) :: rest
    else if a = k then (a, b) :: rest
    else (k, v) :: Memory.put rest a b

/-- `M[a] <- b` (R29). Writing what an unlisted address reads as takes the entry out. -/
def Memory.write (fontBase : Nat) (m : Memory) (a : Nat) (b : Byte) : Memory :=
  if b = resetByte fontBase a then m.drop a else m.put a b

/-- Addresses rise strictly, from `lo` on. -/
def Memory.risesFrom (lo : Nat) (m : Memory) : Bool :=
  match m with
  | [] => true
  | (k, _) :: rest => decide (lo ≤ k) && Memory.risesFrom (k + 1) rest

/-- The canonical form: addresses below 4096 that rise strictly, and no entry equal to the reset contents. -/
def Memory.wf (fontBase : Nat) (m : Memory) : Bool :=
  Memory.risesFrom 0 m && m.all fun c => decide (c.1 < memSize) && c.2 != resetByte fontBase c.1

end Sys2Proof.Machine
end

