-- ==== Sys2Proof/Machine/State.lean ====
section
/-! DEFINITION. The state of CORE (spec/10_state.md R15 to R38), the reset state (R36) and the reasons a step could
stop. `Arch` is the tuple of R38. `State` is that tuple with what a step takes and gives beside it (R38's Config,
StepInputs and StepOutputs), because the form of `exec` and `step` has no other place for them (log entries 1 to 3). -/

namespace Sys2Proof.Machine

/-- The kinds of report (spec/60_exceptions.md R121). -/
inductive ReportKind where
  /-- R122: a word that is none of the 35 instructions. -/
  | unrecognized
  /-- R123: CALL on a full stack under `REPORT`. -/
  | stackOverflow
  /-- R124: RET on an empty stack under `REPORT`. -/
  | stackUnderflow
  deriving DecidableEq, Repr

/-- `Report(kind, pc, word)` (R120). -/
structure Report where
  kind : ReportKind
  /-- The address of the instruction that raised it. -/
  pc : Word
  /-- That instruction's 16 bits. -/
  word : Word
  deriving DecidableEq, Repr

/-- The framebuffer (R26): 32 rows of 64 cells, bit `x` of row `y` being the cell of column `x` of row `y`. -/
abbrev Framebuffer := Vector (BitVec 64) 32

/-- "The complete state of CORE is this tuple, and nothing else" (R38). -/
structure Arch where
  /-- The general registers V0 to VF (R15, R16). -/
  V : Vector Byte 16
  /-- The index register (R21). -/
  I : Word
  /-- The program counter (R18, R20). -/
  pc : Word
  /-- The call stack (R22). -/
  Stack : Vector Word 16
  /-- The stack pointer, which indexes the next free entry: 0 to 16 (R23). -/
  SP : Fin 17
  /-- The delay timer (R24). -/
  DT : Byte
  /-- The sound timer (R25). -/
  ST : Byte
  /-- The memory (R29). -/
  M : Memory
  /-- The framebuffer (R26). -/
  FB : Framebuffer
  /-- The keypad latch, bit `k` for key `k` (R27). -/
  Key : BitVec 16
  /-- The redraw-pending flag (R28). -/
  RP : Bool
  deriving DecidableEq, Repr

/-- The machine: R38's tuple, the configuration it was built with, its random input and its step outputs. -/
structure State extends Arch where
  /-- R38's Config. No step and no port changes it (R35). Log entry 1. -/
  cfg : Config
  /-- The bytes the host supplies on the `rnd` port for the CXNN steps to come, the next one first (R55, R149).
  Log entry 3. -/
  rndIn : List Byte
  /-- The model's own: how many CXNN took a free value because `rndIn` was empty. Log entry 3. -/
  draws : Nat
  /-- The `report` output of the last step (R32, R120). Log entry 2. -/
  report : Option Report
  /-- The `beep` output of the last step (R32, R128). Log entry 2. -/
  beep : Bool
  deriving DecidableEq, Repr

/-- The reasons for which a step faults: there are none. "CORE never hangs inside a step, never stops and never
refuses a word" (spec/60_exceptions.md R135), and no error is fatal (R120). -/
inductive Fault
  deriving DecidableEq, Repr

/-- The reasons for which a step is refused. -/
inductive Refusal where
  /-- Raised by an arm of `exec` whose instruction has no meaning yet, and by nothing else; no arm raises it. Safe:
  the machine stops where the hardware goes on. -/
  | notModelled (mnemonic : String)
  deriving DecidableEq, Repr

/-- The state after construction under a configuration (R36, R136). -/
def State.resetWith (c : Config) : State :=
  { V := Vector.replicate 16 0
    I := 0
    pc := BitVec.ofNat 16 programBase
    Stack := Vector.replicate 16 0
    SP := 0
    DT := 0
    ST := 0
    M := []
    FB := Vector.replicate 32 0
    Key := 0
    RP := false
    cfg := c
    rndIn := []
    draws := 0
    report := none
    beep := false }

/-- The state after reset under the default parameters (R6, R36). -/
def State.reset : State := State.resetWith defaultConfig

end Sys2Proof.Machine
end

