-- ==== Sys2Proof/Machine/Operands.lean ====
section
/-! DEFINITION. How CORE forms operands, addresses and indices (spec/00_scope.md R9; spec/20_memory.md R41, R44;
spec/30_encoding.md R60; spec/42_index_memory.md R104; spec/43_display.md R108; spec/44_keypad_timers.md R115).
Sums are formed in Nat, so none wraps before it is clamped or truncated. -/

namespace Sys2Proof.Machine

/-- `trunc_8` (R9). -/
def trunc8 (v : Nat) : Byte := BitVec.ofNat 8 v
/-- `trunc_16` (R9). -/
def trunc16 (v : Nat) : Word := BitVec.ofNat 16 v
/-- `zext_16(nnn)` (R60). -/
def zext16 (nnn : Addr12) : Word := nnn.setWidth 16

/-- `clampA(a) = min(a, 0x0FFF)` (R41, R44). -/
def clampA (a : Nat) : Nat := min a 0x0FFF

/-- `pixidx(px, py) = min(px + 64 * py, 2047)` (R108). -/
def pixIdx (px py : Nat) : Cell := ⟨min (px + 64 * py) 2047, by omega⟩

/-- `keyidx(v) = min(v, 15)` (R115). -/
def keyIdx (v : Byte) : Reg := ⟨min v.toNat 15, by omega⟩

/-- The registers V0 to Vx in increasing order (R102, R103). -/
def regsUpTo (x : Reg) : List Reg := (List.finRange 16).filter fun k => k ≤ x

/-- `zext_16(nnn) + V[0]`, the target of BNNN (R77). -/
def jumpV0Target (nnn : Addr12) (v0 : Byte) : Word := trunc16 (nnn.toNat + v0.toNat)

/-- The three decimal digits of a byte, hundreds first (R101). -/
def bcdDigits (v : Byte) : List Byte :=
  [trunc8 (v.toNat / 100), trunc8 (v.toNat / 10 % 10), trunc8 (v.toNat % 10)]

/-- `5 * V[x]`, where FX29 points (R100). -/
def glyphAddr (v : Byte) : Word := trunc16 (5 * v.toNat)

end Sys2Proof.Machine
end

