-- ==== Sys2Proof/Machine/Flags.lean ====
section
/-! DEFINITION. The flag computations of CORE (spec/10_state.md R16; spec/41_register_alu.md R90 to R94;
spec/42_index_memory.md R99), each computed in unbounded naturals and narrowed at the end. The collision flag of
DRW is computed with its toggles, in Machine/Ops.lean. -/

namespace Sys2Proof.Machine

/-- A flag as the byte VF receives: "exactly 0 or 1" (R83). -/
def flagByte (f : Bool) : Byte := if f then 1 else 0

/-- A result and the flag that goes to VF after it (R83). -/
structure AluResult where
  value : Byte
  flag : Bool
  deriving DecidableEq, Repr

/-- R90: the sum, and the carry out of bit 7. -/
def addCarry (a b : Byte) : AluResult :=
  let s := a.toNat + b.toNat
  { value := trunc8 s, flag := decide (s > 0xFF) }

/-- R91 and R93: `d = 0x100 + a - b`, and `d[8]`, which is 1 when no borrow occurs. -/
def subNotBorrow (a b : Byte) : AluResult :=
  let d := 0x100 + a.toNat - b.toNat
  { value := trunc8 d, flag := d.testBit 8 }

/-- R92: `vx >> 1`, and the bit shifted out. -/
def shiftRight1 (a : Byte) : AluResult :=
  { value := trunc8 (a.toNat / 2), flag := a.getLsbD 0 }

/-- R94: `trunc_8(vx << 1)`, and the bit shifted out. -/
def shiftLeft1 (a : Byte) : AluResult :=
  { value := trunc8 (a.toNat * 2), flag := a.getLsbD 7 }

/-- R99: whether the sum, before truncation, passes 12 bits. -/
def passes12Bits (s : Nat) : Bool := decide (s > 0x0FFF)

end Sys2Proof.Machine
end

