-- ==== Sys2Proof/Machine/Ops.lean ====
section
/-! DEFINITION. The named operations over the state: registers, program counter, memory, stack, framebuffer, keypad,
random input, reports and the timer tick. Every meaning is written over them. -/

namespace Sys2Proof.Machine

/-! Registers. -/

/-- `V[r]` (R10). -/
def State.getV (s : State) (r : Reg) : Byte := s.V[r.val]'r.isLt
/-- `V[r] <- v` (R10). No register is hard-wired (R15). -/
def State.setV (s : State) (r : Reg) (v : Byte) : State := { s with V := s.V.set r.val v r.isLt }
/-- `I <- v` (R10). -/
def State.setI (s : State) (v : Word) : State := { s with I := v }
/-- `DT <- v` (R10). -/
def State.setDT (s : State) (v : Byte) : State := { s with DT := v }
/-- `ST <- v` (R10). -/
def State.setST (s : State) (v : Byte) : State := { s with ST := v }

/-- R83, R16: the result register first, then VF, so that with x = 0xF the flag overwrites the result. -/
def State.setVThenFlag (s : State) (x : Reg) (r : AluResult) : State :=
  (s.setV x r.value).setV vf (flagByte r.flag)

/-! The program counter. -/

/-- `pc <- target` (R10, R20). -/
def State.setPc (s : State) (target : Word) : State := { s with pc := target }
/-- `pc <- pc + 2`, modulo 2^16 (R12, R20). -/
def State.advance (s : State) : State := s.setPc (s.pc + 2)
/-- A skip: `pc + 4` when the condition holds, else `pc + 2`. The skipped word is not fetched (R82). -/
def State.skipIf (s : State) (c : Bool) : State := if c then s.setPc (s.pc + 4) else s.advance

/-! Memory. -/

/-- `M[a]` itself, with no clamp. -/
def State.byteAt (s : State) (a : Nat) : Byte := s.M.read s.cfg.fontBase a
/-- `M[a] <- v` itself, with no clamp. -/
def State.setByte (s : State) (a : Nat) (v : Byte) : State := { s with M := s.M.write s.cfg.fontBase a v }
/-- `MemRead(addr, 1)` (R41). -/
def State.memRead (s : State) (addr : Nat) : Byte := s.byteAt (clampA addr)
/-- `MemWrite(addr, 1, v)` (R41). -/
def State.memWrite (s : State) (addr : Nat) (v : Byte) : State := s.setByte (clampA addr) v
/-- `MemRead(addr, 2)`: big-endian, each address clamped (R40, R41, R42). -/
def State.memRead2 (s : State) (addr : Nat) : Word := wordOfBytes (s.memRead addr) (s.memRead (addr + 1))
/-- The two bytes a step fetches at `pc` (R42). -/
def State.fetchBytes (s : State) : List Byte := [s.memRead s.pc.toNat, s.memRead (s.pc.toNat + 1)]
/-- The word a step fetches at `pc` (R42, R71). -/
def State.fetchWord (s : State) : Word := s.memRead2 s.pc.toNat

/-- Single bytes written at increasing addresses from `i + k` on (R45, R101, R102). -/
def State.storeBytes (s : State) (i : Word) (k : Nat) (bs : List Byte) : State :=
  match bs with
  | [] => s
  | b :: rest => (s.memWrite (i.toNat + k) b).storeBytes i (k + 1) rest

/-- `V[k] <- MemRead(i + k, 1)` for each register of a list, in its order (R103). -/
def State.loadInto (s : State) (i : Word) (rs : List Reg) : State :=
  match rs with
  | [] => s
  | k :: rest => (s.setV k (s.memRead (i.toNat + k.val))).loadInto i rest

/-- `if BLOCK_INCREMENTS_I: I <- trunc_16(i + x + 1)` (R102, R103). -/
def State.blockIncrement (s : State) (i : Word) (x : Reg) : State :=
  if s.cfg.blockIncrementsI then s.setI (trunc16 (i.toNat + x.val + 1)) else s

/-! The call stack. -/

/-- `Stack[j mod 16]`. -/
def State.stackAt (s : State) (j : Nat) : Word := s.Stack[j % 16]'(by omega)
/-- R75: the stack is full, which only `REPORT` tests. -/
def State.stackFull (s : State) : Bool := decide (s.cfg.stackPolicy = .report) && decide (s.SP.val = 16)
/-- R76: the stack is empty, which only `REPORT` tests. -/
def State.stackEmpty (s : State) : Bool := decide (s.cfg.stackPolicy = .report) && decide (s.SP.val = 0)

/-- R75: the stack pointer after a push. -/
def spAfterPush (p : StackPolicy) (sp : Fin 17) : Fin 17 :=
  match p with
  | .report => Fin.ofNat 17 (sp.val + 1)
  | .wrap => Fin.ofNat 17 ((sp.val + 1) % 16)

/-- R76: the stack pointer after a pop. -/
def spAfterPop (p : StackPolicy) (sp : Fin 17) : Fin 17 :=
  match p with
  | .report => Fin.ofNat 17 (sp.val - 1)
  | .wrap => Fin.ofNat 17 ((sp.val + 15) % 16)

/-- `Stack[SP mod 16] <- v`, then SP goes up (R75). -/
def State.push (s : State) (v : Word) : State :=
  { s with
    Stack := s.Stack.set (s.SP.val % 16) v (by omega)
    SP := spAfterPush s.cfg.stackPolicy s.SP }

/-- SP goes down; the popped entry is not cleared (R22, R76). -/
def State.pop (s : State) : State := { s with SP := spAfterPop s.cfg.stackPolicy s.SP }

/-- The value a pop gives: `Stack[SP]` under the new SP (R76). -/
def State.popped (s : State) : Word := s.stackAt (spAfterPop s.cfg.stackPolicy s.SP).val

/-! The framebuffer write port (R105). -/

/-- `FB[k]` (R26). -/
def Framebuffer.cell (f : Framebuffer) (k : Cell) : Bool := (f[k.val / 64]'(by omega)).getLsbD (k.val % 64)
/-- `FB[k] <- FB[k] ^ 1` (R107). -/
def Framebuffer.toggle (f : Framebuffer) (k : Cell) : Framebuffer :=
  f.set (k.val / 64) ((f[k.val / 64]'(by omega)) ^^^ (1#64 <<< (k.val % 64))) (by omega)
/-- Every cell 0. -/
def Framebuffer.blank : Framebuffer := Vector.replicate 32 0

/-- `FB[k]` of the machine (R10). -/
def State.cell (s : State) (k : Cell) : Bool := s.FB.cell k
/-- A use of the write port: a new framebuffer, and `RP <- 1` (R105). -/
def State.drawFrame (s : State) (f : Framebuffer) : State := { s with FB := f, RP := true }

/-- The columns of the set bits of a sprite byte, left to right; bit 7 is column 0 (R107). -/
def setColumns (b : Byte) : List Nat := (List.range 8).filter fun c => b.getLsbD (7 - c)

/-- The cells that one row of a sprite toggles, in order (R107, R108). -/
def rowCells (x0 y0 r : Nat) (b : Byte) : List Cell := (setColumns b).map fun c => pixIdx (x0 + c) (y0 + r)

/-- The cells that `DRW Vx, Vy, n` toggles, in order: rows upwards from 0, columns left to right (R107, R109). -/
def State.spriteCells (s : State) (x0 y0 : Byte) (n : Nibble) : List Cell :=
  (List.range n.toNat).flatMap fun r => rowCells x0.toNat y0.toNat r (s.memRead (s.I.toNat + r))

/-- Toggles made one at a time; the flag records a toggle that found its cell at 1 (R107, R109). -/
def toggleCells (f : Framebuffer) (hit : Bool) (ks : List Cell) : Framebuffer × Bool :=
  match ks with
  | [] => (f, hit)
  | k :: rest => toggleCells (f.toggle k) (hit || f.cell k) rest

/-! The keypad latch (R27). -/

/-- `Key[k] == 1`. -/
def State.held (s : State) (k : Reg) : Bool := s.Key.getLsbD k.val

/-- `min(held)` among the scanned keys, if any is held (R112). -/
def State.lowestHeld (s : State) : Option Reg :=
  (List.finRange 16).find? fun k => decide (k.val < s.cfg.keywaitScanLimit.value) && s.held k

/-! The random input (R55). -/

/-- The byte that CXNN samples: the host's, or a free one when the host's is not given. -/
def State.rndByte (s : State) : Byte :=
  match s.rndIn with
  | b :: _ => b
  | [] => Config.freeRnd s.draws

/-- The random input after it was sampled once. -/
def State.rndTaken (s : State) : State :=
  match s.rndIn with
  | _ :: rest => { s with rndIn := rest }
  | [] => { s with draws := s.draws + 1 }

/-! Reports. A report is the one thing CORE has in place of an exception: nothing is saved, no control is
transferred and there is nothing to return from (R120, R131). -/

/-- The code of a kind (R121). -/
def ReportKind.code (k : ReportKind) : Nat :=
  match k with
  | .unrecognized => 1
  | .stackOverflow => 2
  | .stackUnderflow => 3

/-- `raise Report(kind, (pc, w))` (R10, R120). -/
def State.raise (s : State) (k : ReportKind) (w : Word) : State := { s with report := some ⟨k, s.pc, w⟩ }

/-- A raised report with the effect every raising rule gives it: `pc <- pc + 2` and nothing else (R121). -/
def State.reportAndAdvance (s : State) (k : ReportKind) (w : Word) : State := (s.raise k w).advance

/-- R68, R122: an unrecognized word is reported and otherwise a no-op that advances. -/
def State.unrecognized (s : State) (w : Word) : State := s.reportAndAdvance .unrecognized w

/-- The outputs belong to one step: at its start there is no report and no beep (R32, R120, R128). -/
def State.clearOutputs (s : State) : State := { s with report := none, beep := false }

/-! The timer tick (R126). -/

/-- A timer after one tick: down by 1 while it is above 0 (R126, R127). -/
def tickTimer (t : Byte) : Byte := if t.toNat > 0 then t - 1 else t

/-- R126, R128: both timers count down, and the beep fires when ST was exactly 1. -/
def State.tick (s : State) : State :=
  { s with DT := tickTimer s.DT, ST := tickTimer s.ST, beep := decide (s.ST = 1) }

end Sys2Proof.Machine
end

