-- ==== Sys2Proof/Machine/ControlFlow.lean ====
section
/-! DEFINITION. Control flow (spec/40_control_flow.md R73 to R82): each meaning is the execute phase of one step,
in which `pc` still holds the instruction's own address (R18). -/

namespace Sys2Proof.Machine

/-- R73: a recognized no-op; `nnn` is ignored. -/
def execSys (_nnn : Addr12) (s : State) : Host.Outcome State Fault Refusal :=
  .next s.advance

/-- R74: `pc <- zext_16(nnn)`. -/
def execJp (nnn : Addr12) (s : State) : Host.Outcome State Fault Refusal :=
  .next (s.setPc (zext16 nnn))

/-- R75: the CALL's own address is pushed; on a full stack under `REPORT` it is reported instead. -/
def execCall (nnn : Addr12) (s : State) : Host.Outcome State Fault Refusal :=
  if s.stackFull then .next (s.reportAndAdvance .stackOverflow (encode (.call nnn)))
  else .next ((s.push s.pc).setPc (zext16 nnn))

/-- R76: back to the popped address + 2; on an empty stack under `REPORT` it is reported instead. -/
def execRet (s : State) : Host.Outcome State Fault Refusal :=
  if s.stackEmpty then .next (s.reportAndAdvance .stackUnderflow (encode .ret))
  else .next (s.pop.setPc (s.popped + 2))

/-- R77: `pc <- zext_16(nnn) + V[0]`. -/
def execJpV0 (nnn : Addr12) (s : State) : Host.Outcome State Fault Refusal :=
  .next (s.setPc (jumpV0Target nnn (s.getV 0)))

/-- R78: skip when `V[x] == nn`. -/
def execSeImm (x : Reg) (nn : Byte) (s : State) : Host.Outcome State Fault Refusal :=
  .next (s.skipIf (decide (s.getV x = nn)))

/-- R79: skip when `V[x] != nn`. -/
def execSneImm (x : Reg) (nn : Byte) (s : State) : Host.Outcome State Fault Refusal :=
  .next (s.skipIf (decide (s.getV x ≠ nn)))

/-- R80: skip when `V[x] == V[y]`; `n` is ignored. -/
def execSeReg (x y : Reg) (_n : Nibble) (s : State) : Host.Outcome State Fault Refusal :=
  .next (s.skipIf (decide (s.getV x = s.getV y)))

/-- R81: skip when `V[x] != V[y]`; `n` is ignored. -/
def execSneReg (x y : Reg) (_n : Nibble) (s : State) : Host.Outcome State Fault Refusal :=
  .next (s.skipIf (decide (s.getV x ≠ s.getV y)))

end Sys2Proof.Machine
end

