-- ==== Sys2Proof/Machine/Display.lean ====
section
/-! DEFINITION. Display clear and sprite draw (spec/43_display.md R105 to R111). -/

namespace Sys2Proof.Machine

/-- R106: every cell 0, and RP set. -/
def execCls (s : State) : Host.Outcome State Fault Refusal :=
  .next (s.drawFrame Framebuffer.blank).advance

/-- R107: the sprite's cells are toggled, RP is set, and VF receives the collision flag. The operands are read
before VF is written (R111). -/
def execDrw (x y : Reg) (n : Nibble) (s : State) : Host.Outcome State Fault Refusal :=
  let drawn := toggleCells s.FB false (s.spriteCells (s.getV x) (s.getV y) n)
  .next ((s.drawFrame drawn.1).setV vf (flagByte drawn.2)).advance

end Sys2Proof.Machine
end

