-- ==== Sys2Proof/Machine/IndexMemory.lean ====
section
/-! DEFINITION. The index register and memory access (spec/42_index_memory.md R98 to R104). -/

namespace Sys2Proof.Machine

/-- R98: `I <- zext_16(nnn)`. -/
def execLdI (nnn : Addr12) (s : State) : Host.Outcome State Fault Refusal :=
  .next (s.setI (zext16 nnn)).advance

/-- R99: `I <- trunc_16(i + vx)`, then VF receives whether the untruncated sum passes 12 bits. -/
def execAddI (x : Reg) (s : State) : Host.Outcome State Fault Refusal :=
  let sum := s.I.toNat + (s.getV x).toNat
  .next ((s.setI (trunc16 sum)).setV vf (flagByte (passes12Bits sum))).advance

/-- R100: `I <- 5 * V[x]`; V[x] is not masked and `FONT_BASE` is not added. -/
def execLdF (x : Reg) (s : State) : Host.Outcome State Fault Refusal :=
  .next (s.setI (glyphAddr (s.getV x))).advance

/-- R101: the hundreds, tens and ones digits of V[x] at I, I + 1, I + 2, in that order; I is unchanged. -/
def execLdB (x : Reg) (s : State) : Host.Outcome State Fault Refusal :=
  .next (s.storeBytes s.I 0 (bcdDigits (s.getV x))).advance

/-- R102: V0 to Vx at I, I + 1, ..., in increasing order. -/
def execStoreRegs (x : Reg) (s : State) : Host.Outcome State Fault Refusal :=
  .next ((s.storeBytes s.I 0 ((regsUpTo x).map s.getV)).blockIncrement s.I x).advance

/-- R103: V0 to Vx from I, I + 1, ..., in increasing order. -/
def execLoadRegs (x : Reg) (s : State) : Host.Outcome State Fault Refusal :=
  .next ((s.loadInto s.I (regsUpTo x)).blockIncrement s.I x).advance

end Sys2Proof.Machine
end

