-- ==== Sys2Proof/Machine/KeypadTimers.lean ====
section
/-! DEFINITION. Keypad and timer instructions (spec/44_keypad_timers.md R112 to R119). -/

namespace Sys2Proof.Machine

/-- R112: the lowest held scanned key goes to V[x]; with none held, `pc` stays and the next step tries again. -/
def execLdVxK (x : Reg) (s : State) : Host.Outcome State Fault Refusal :=
  match s.lowestHeld with
  | none => .next s
  | some k => .next (s.setV x (trunc8 k.val)).advance

/-- R113: skip when the key named by V[x] is held. -/
def execSkp (x : Reg) (s : State) : Host.Outcome State Fault Refusal :=
  .next (s.skipIf (s.held (keyIdx (s.getV x))))

/-- R114: skip when the key named by V[x] is not held. -/
def execSknp (x : Reg) (s : State) : Host.Outcome State Fault Refusal :=
  .next (s.skipIf (!s.held (keyIdx (s.getV x))))

/-- R116: `V[x] <- DT`, before this step's tick. -/
def execLdVxDT (x : Reg) (s : State) : Host.Outcome State Fault Refusal :=
  .next (s.setV x s.DT).advance

/-- R117: `DT <- V[x]`; this step's tick follows. -/
def execLdDTVx (x : Reg) (s : State) : Host.Outcome State Fault Refusal :=
  .next (s.setDT (s.getV x)).advance

/-- R118: `ST <- V[x]`; this step's tick follows. -/
def execLdSTVx (x : Reg) (s : State) : Host.Outcome State Fault Refusal :=
  .next (s.setST (s.getV x)).advance

end Sys2Proof.Machine
end

