-- ==== Sys2Proof/Machine/RegisterAlu.lean ====
section
/-! DEFINITION. Register loads, arithmetic and random (spec/41_register_alu.md R83 to R97). Operands are read before
any register is written (R83): each meaning hands the values of the old state to one shared write. -/

namespace Sys2Proof.Machine

/-- R84: `V[x] <- nn`. -/
def execLdImm (x : Reg) (nn : Byte) (s : State) : Host.Outcome State Fault Refusal :=
  .next (s.setV x nn).advance

/-- R85: `V[x] <- trunc_8(vx + nn)`; VF is not written as a flag. -/
def execAddImm (x : Reg) (nn : Byte) (s : State) : Host.Outcome State Fault Refusal :=
  .next (s.setV x (trunc8 ((s.getV x).toNat + nn.toNat))).advance

/-- R86: `V[x] <- V[y]`. -/
def execLdReg (x y : Reg) (s : State) : Host.Outcome State Fault Refusal :=
  .next (s.setV x (s.getV y)).advance

/-- R87: `V[x] <- vx | vy`. -/
def execOrReg (x y : Reg) (s : State) : Host.Outcome State Fault Refusal :=
  .next (s.setV x (s.getV x ||| s.getV y)).advance

/-- R88: `V[x] <- vx & vy`. -/
def execAndReg (x y : Reg) (s : State) : Host.Outcome State Fault Refusal :=
  .next (s.setV x (s.getV x &&& s.getV y)).advance

/-- R89: `V[x] <- vx ^ vy`. -/
def execXorReg (x y : Reg) (s : State) : Host.Outcome State Fault Refusal :=
  .next (s.setV x (s.getV x ^^^ s.getV y)).advance

/-- R90: the sum, then the carry to VF. -/
def execAddReg (x y : Reg) (s : State) : Host.Outcome State Fault Refusal :=
  .next (s.setVThenFlag x (addCarry (s.getV x) (s.getV y))).advance

/-- R91: `vx - vy`, then the not-borrow to VF. -/
def execSubReg (x y : Reg) (s : State) : Host.Outcome State Fault Refusal :=
  .next (s.setVThenFlag x (subNotBorrow (s.getV x) (s.getV y))).advance

/-- R92: V[x] shifted right, then the bit shifted out to VF; `y` is ignored. -/
def execShr (x _y : Reg) (s : State) : Host.Outcome State Fault Refusal :=
  .next (s.setVThenFlag x (shiftRight1 (s.getV x))).advance

/-- R93: `vy - vx`, then the not-borrow to VF. -/
def execSubnReg (x y : Reg) (s : State) : Host.Outcome State Fault Refusal :=
  .next (s.setVThenFlag x (subNotBorrow (s.getV y) (s.getV x))).advance

/-- R94: V[x] shifted left, then the bit shifted out to VF; `y` is ignored. -/
def execShl (x _y : Reg) (s : State) : Host.Outcome State Fault Refusal :=
  .next (s.setVThenFlag x (shiftLeft1 (s.getV x))).advance

/-- R95: `V[x] <- rnd & nn`, the random input sampled once (R55). -/
def execRnd (x : Reg) (nn : Byte) (s : State) : Host.Outcome State Fault Refusal :=
  .next (s.rndTaken.setV x (s.rndByte &&& nn)).advance

end Sys2Proof.Machine
end

