-- ==== Sys2Proof/Machine/Step.lean ====
section
/-! DEFINITION. The step cycle (spec/30_encoding.md R71) and where a step fetches from. -/

namespace Sys2Proof.Machine

/-- R71: fetch, decode, execute, tick. The outputs of the last step are dropped first (R32), and an unrecognized
word runs as R68 says. -/
def step (s : State) : Host.Outcome State Fault Refusal :=
  match decode s.clearOutputs.fetchBytes with
  | .error _ => .next (s.clearOutputs.unrecognized s.clearOutputs.fetchWord).tick
  | .ok (i, _) =>
    match exec i s.clearOutputs with
    | .next t => .next t.tick
    | .fault r => .fault r
    | .refused r => .refused r

/-- The state in which the next step fetches the word `w`, numbered as spec/opcode_table.json numbers it: its high
byte at `pc`, its low byte at `pc + 1` (R40, R42). At a `pc` of 0x0FFF or more both bytes of a fetch are `M[0xFFF]`,
so there `pc` first goes to `PROGRAM_BASE` (log entry 5). -/
def State.withFetchWord (s : State) (nbits w : Nat) : State :=
  let word : Word := BitVec.ofNat 16 (w % 2 ^ nbits)
  let p := if s.pc.toNat < 0x0FFF then s else s.setPc (trunc16 programBase)
  (p.memWrite p.pc.toNat (hiByte word)).memWrite (p.pc.toNat + 1) (loByte word)

end Sys2Proof.Machine
end

