-- ==== Sys2Proof/Machine/Ports.lean ====
section
/-! DEFINITION. The ports through which the host reaches CORE between two steps (spec/20_memory.md R50 to R55;
spec/10_state.md R37; spec/70_reset_and_hazards.md R149), and the step as R38's function of a configuration, a
state and its inputs. -/

namespace Sys2Proof.Machine

/-! The loader port (R51). -/

/-- Bytes written at increasing addresses from `a` on, with no clamp: the loader's image never passes 0xFFF. -/
def State.placeBytes (s : State) (a : Nat) (bs : List Byte) : State :=
  match bs with
  | [] => s
  | b :: rest => (s.setByte a b).placeBytes (a + 1) rest

/-- Whether the loader took the image (R51). -/
inductive LoadAnswer where
  | accepted
  | refused
  deriving DecidableEq, Repr

/-- R51: the answer to an image, which only its length and `LOAD_OVERSIZE` decide. -/
def loadAnswer (p : LoadOversize) (len : Nat) : LoadAnswer :=
  match p with
  | .reject => if len ≤ maxImage then .accepted else .refused
  | .truncate => .accepted

/-- R51: the image at 0x200; refused whole under `REJECT`, cut to 3584 bytes under `TRUNCATE`. -/
def State.load (s : State) (bs : List Byte) : State :=
  match loadAnswer s.cfg.loadOversize bs.length with
  | .accepted => s.placeBytes programBase (bs.take maxImage)
  | .refused => s

/-! The other ports the host writes. -/

/-- The keypad latch port: `Key[k] <- v` (R53). -/
def State.setKey (s : State) (k : Reg) (v : Bool) : State :=
  { s with Key := if v then s.Key ||| (1#16 <<< k.val) else s.Key &&& ~~~(1#16 <<< k.val) }

/-- The `rp_clear` port: `RP <- 0` (R52). -/
def State.clearRP (s : State) : State := { s with RP := false }

/-- The `rnd` port: one more byte for a CXNN step to come (R55, R149). -/
def State.supplyRnd (s : State) (b : Byte) : State := { s with rndIn := s.rndIn ++ [b] }

/-! The ports the host reads. None changes anything. -/

/-- `mem_rd_data` for an address (R51). -/
def State.memPort (s : State) (a : Addr12) : Byte := s.byteAt a.toNat
/-- `fb_rd_data` for a cell: 0x00 or 0x01 (R52). -/
def State.fbPort (s : State) (k : Cell) : Byte := if s.cell k then 0x01 else 0x00
/-- `rp` (R52). -/
def State.rpPort (s : State) : Bool := s.RP
/-- `st_out` (R54). -/
def State.stPort (s : State) : Byte := s.ST
/-- `beep` in the step just made (R54). -/
def State.beepPort (s : State) : Bool := s.beep
/-- `report` in the step just made (R120). -/
def State.reportPort (s : State) : Option Report := s.report

/-- Everything the host may write between two steps (R37, R149). -/
inductive HostMove where
  | load (image : List Byte)
  | setKey (k : Reg) (v : Bool)
  | clearRP
  | supplyRnd (b : Byte)
  deriving DecidableEq, Repr

/-- The effect of a host's move. -/
def State.hostMove (s : State) (m : HostMove) : State :=
  match m with
  | .load image => s.load image
  | .setKey k v => s.setKey k v
  | .clearRP => s.clearRP
  | .supplyRnd b => s.supplyRnd b

/-- What happens at CORE, one after another: a step, or a host's move between two steps (R50). -/
inductive Event where
  | step
  | host (m : HostMove)
  deriving DecidableEq, Repr

/-- A run: events in order, until a step stops. -/
def runEvents (es : List Event) (s : State) : Host.Outcome State Fault Refusal :=
  match es with
  | [] => .next s
  | .host m :: rest => runEvents rest (s.hostMove m)
  | .step :: rest =>
    match step s with
    | .next t => runEvents rest t
    | .fault r => .fault r
    | .refused r => .refused r

/-! R38: "A step is a function (Config, State, StepInputs) -> (State, StepOutputs)". -/

/-- R38's StepInputs. -/
structure StepInputs where
  rnd : Byte
  deriving DecidableEq, Repr

/-- R38's StepOutputs. -/
structure StepOutputs where
  beep : Bool
  report : Option Report
  deriving DecidableEq, Repr

/-- The machine of a configuration, a tuple and the inputs of one step. -/
def State.ofParts (c : Config) (a : Arch) (inp : StepInputs) : State :=
  { toArch := a, cfg := c, rndIn := [inp.rnd], draws := 0, report := none, beep := false }

/-- The outputs of the step just made. -/
def State.outputs (s : State) : StepOutputs := { beep := s.beep, report := s.report }

/-- R38's step; `none` only if a step stopped, which none does (R135). -/
def stepFn (c : Config) (a : Arch) (inp : StepInputs) : Option (Arch × StepOutputs) :=
  match step (State.ofParts c a inp) with
  | .next t => some (t.toArch, t.outputs)
  | .fault _ => none
  | .refused _ => none

end Sys2Proof.Machine
end

