-- ==== Sys2Proof/Safety.lean ====
section
/-! DEFINITION. The terms claims use: the invariant of reachable states (spec/10_state.md R33), the parts of the
state and what "only these change" means, and the two ends of a run (spec/70_reset_and_hazards.md R148). -/

namespace Sys2Proof.Machine

/-- R33, as far as the types do not already say it: memory is in its canonical form, with addresses below 4096, and
SP is in the range of R23, which under `WRAP` is 0 to 15. -/
def Inv (s : State) : Prop :=
  s.M.wf s.cfg.fontBase = true ∧ (s.cfg.stackPolicy = .wrap → s.SP.val < 16)

/-- One observable part of the machine. -/
inductive Part where
  | V (r : Reg)
  | I
  | pc
  | stack (j : Fin 16)
  | SP
  | DT
  | ST
  /-- The byte of memory at an address. -/
  | byte (a : Nat)
  | cell (k : Cell)
  | key (k : Reg)
  | RP
  | cfg
  | rndIn
  | draws
  | report
  | beep
  deriving DecidableEq, Repr

/-- A part reads the same in two states. -/
def SamePart (p : Part) (s t : State) : Prop :=
  match p with
  | .V r => t.getV r = s.getV r
  | .I => t.I = s.I
  | .pc => t.pc = s.pc
  | .stack j => t.stackAt j.val = s.stackAt j.val
  | .SP => t.SP = s.SP
  | .DT => t.DT = s.DT
  | .ST => t.ST = s.ST
  | .byte a => t.byteAt a = s.byteAt a
  | .cell k => t.cell k = s.cell k
  | .key k => t.held k = s.held k
  | .RP => t.RP = s.RP
  | .cfg => t.cfg = s.cfg
  | .rndIn => t.rndIn = s.rndIn
  | .draws => t.draws = s.draws
  | .report => t.report = s.report
  | .beep => t.beep = s.beep

/-- Every part but the touched ones reads in `t` as it reads in `s`. -/
def OnlyChanges (touched : Part → Prop) (s t : State) : Prop := ∀ p, ¬ touched p → SamePart p s t

/-- The cells that R107's two loops toggle, in order and with repetition, written from R107 and R108 alone: row `r`
from 0 to `n - 1`, column `c` from 0 to 7, a toggle where bit `7 - c` of the byte at `I + r` is 1, at
`min(x0 + c + 64 * (y0 + r), 2047)`. Claims about DRW are stated with this list, not with the model's own. -/
def spriteToggles (s : State) (x0 y0 n : Nat) : List Nat :=
  (List.range n).flatMap fun r =>
    ((List.range 8).filter fun c => (s.byteAt (min (s.I.toNat + r) 0x0FFF)).getLsbD (7 - c)).map fun c =>
      min (x0 + c + 64 * (y0 + r)) 2047

/-- Some toggle of the list finds its cell at 1, each toggle seeing the ones before it (R107, R109). -/
def TogglesCollide (s : State) (toggles : List Nat) : Prop :=
  ∃ before k after, toggles = before ++ k.val :: after ∧
    (s.cell k ^^ decide (before.count k.val % 2 = 1)) = true

/-- The number of keys FX0A scans (R112), from the parameter alone. -/
def scannedKeys (c : Config) : Nat :=
  match c.keywaitScanLimit with
  | .fifteen => 15
  | .sixteen => 16

/-- A safe step: a next state and no report (R131: "take 'no report occurred' as a premise of a claim"). -/
def cleanStep (s : State) : Option State :=
  match step s with
  | .next t => if t.report.isNone then some t else none
  | .fault _ => none
  | .refused _ => none

/-- R148: the word at `pc` is `0x1000 | pc`, with `pc <= 0x0FFF`. -/
def State.atSelfLoop (s : State) : Bool :=
  decide (s.pc.toNat ≤ 0x0FFF) && decide (s.fetchWord = (0x1000 ||| s.pc))

/-- R148 (b): the fuel end, the state after `k` steps, whatever they reported. No move of the host stands between
these steps: DESIGN CHOICE, log entry 26. A run with such moves is `runEvents`. -/
def fuelEnd (k : Nat) (s : State) : Option State :=
  match Sys2Proof.core.run k s with
  | .next t => some t
  | .fault _ => none
  | .refused _ => none

/-- R148 (a): the self-loop end within `fuel` steps: the first state, reached after a step, that is at a self-loop,
no step having reported. No move of the host stands between these steps: DESIGN CHOICE, log entry 26. -/
def selfLoopEnd (fuel : Nat) (s : State) : Option State :=
  match fuel with
  | 0 => none
  | k + 1 =>
    match cleanStep s with
    | none => none
    | some t => if t.atSelfLoop then some t else selfLoopEnd k t

end Sys2Proof.Machine
end

