-- ==== Sys2Proof/Certificates/Slice0/Obligations.lean ====
section
/-! DEFINITION. The statements about CORE, each from the rules of spec/ that its docstring names. Nothing is proved
here. Statements quantify over every state, and so over every configuration: `s.cfg` is a state's configuration. -/

open Sys2Proof Sys2Proof.Machine

/-! ## Encoding and the step cycle -/

/-- Words written out from the patterns of 30_encoding.md (the opcode map) decode to their instructions. 00E0, 8014
and 8015 are the source's own words; the other patterns are the spec's general knowledge (decision D28). Family 0 and
the ignored n are D9 and D29 (log entry 14 has all three). -/
def Obligations.SpecWordsDecodeToTheirInstructions : Prop :=
  decodeWord 0x00E0 = .ok .cls ∧ decodeWord 0x8014 = .ok (.addReg 0 1) ∧ decodeWord 0x8015 = .ok (.subReg 0 1) ∧
  decodeWord 0x00EE = .ok .ret ∧ decodeWord 0x01E0 = .ok (.sys 0x1E0) ∧ decodeWord 0x2208 = .ok (.call 0x208) ∧
  decodeWord 0x332A = .ok (.seImm 3 0x2A) ∧ decodeWord 0x5017 = .ok (.seReg 0 1 7) ∧
  decodeWord 0xD125 = .ok (.drw 1 2 5) ∧ decodeWord 0xE0A1 = .ok (.sknp 0) ∧ decodeWord 0xF265 = .ok (.loadRegs 2) ∧
  decodeWord 0x8018 = .error (.unrecognized8 8) ∧ decodeWord 0xE0FF = .error (.unrecognizedE 0xFF) ∧
  decodeWord 0xF000 = .error (.unrecognizedF 0x00)

/-- Every well-formed instruction, at every value of its operands, is read back from its bytes, and the bytes after
them are given back. The patterns that both sides share are the spec's decisions D9, D28 and D29 (log entry 14). -/
def Obligations.DecodeUndoesEncode : Prop :=
  ∀ (i : Instr) (rest : List Byte), WellFormed i = true → decode (encodeBytes i ++ rest) = .ok (i, rest)

/-- Every recognized word stands for exactly one well-formed instruction, whose word it is: no ignored bit is lost.
The patterns that both sides share are the spec's decisions D9, D28 and D29 (log entry 14). -/
def Obligations.EncodeUndoesDecode : Prop :=
  ∀ (w : Word) (i : Instr), decodeWord w = .ok i → WellFormed i = true ∧ encode i = w

/-- The decode tree agrees with the opcode map: a recognized word matches its instruction's row, and a second row only
when that is the SYS row behind a full-mask row; an unrecognized word matches no row. The map's patterns are the
spec's decisions D9, D28 and D29 (log entry 14). -/
def Obligations.DecodeTreeAgreesWithOpcodeMap : Prop :=
  ∀ w : Word,
    (∀ i, decodeWord w = .ok i →
      rowOf i ∈ opcodeMap ∧ (rowOf i).matches w = true ∧
      ∀ r ∈ opcodeMap, r.matches w = true → r ≠ rowOf i → (rowOf i).mask = 0xFFFF ∧ r = ⟨0xF000, 0x0000⟩) ∧
    (∀ e, decodeWord w = .error e → ∀ r ∈ opcodeMap, r.matches w = false)

/-- A word is unrecognized exactly when it lies in one of the three sets of 30_encoding.md R67. Which words are
recognized rests on the spec's decisions D9, D28 and D29 (log entry 14). -/
def Obligations.UnrecognizedWordsAreTheThreeSets : Prop :=
  ∀ w : Word, (∃ e, decodeWord w = .error e) ↔
    (w.toNat / 0x1000 = 0x8 ∧ w.toNat % 0x10 ∈ [8, 9, 0xA, 0xB, 0xC, 0xD, 0xF]) ∨
    (w.toNat / 0x1000 = 0xE ∧ w.toNat % 0x100 ∉ [0x9E, 0xA1]) ∨
    (w.toNat / 0x1000 = 0xF ∧ w.toNat % 0x100 ∉ [0x07, 0x0A, 0x15, 0x18, 0x1E, 0x29, 0x33, 0x55, 0x65])

/-- The fetch: the byte at `pc` is the high byte and the byte at `pc + 1` the low one, at an odd `pc` like at an even
one; from 0x0FFF on both are `M[0xFFF]` (the clamp is the spec's decision D3). That an odd pc is legal is D4; log
entry 10 has both. -/
def Obligations.FetchIsBigEndianAndClamped : Prop :=
  ∀ s : State,
    (s.pc.toNat < 0x0FFF →
      s.fetchWord.toNat = 0x100 * (s.byteAt s.pc.toNat).toNat + (s.byteAt (s.pc.toNat + 1)).toNat) ∧
    (0x0FFF ≤ s.pc.toNat → s.fetchWord.toNat = 0x100 * (s.byteAt 0x0FFF).toNat + (s.byteAt 0x0FFF).toNat)

/-- When the two bytes that stand where the step fetches decode to an instruction, the step is that instruction's
execute phase, begun with no report and no beep, and then the timer tick (30_encoding.md R71). That the tick follows
execute is the spec's decision D2 (log entry 21), and the clamp of the two fetched addresses is its decision D3 (log
entry 10); that the last step's outputs stand in the state and are dropped first is the model's choice (log entry 2). -/
def Obligations.StepRunsTheDecodedInstruction : Prop :=
  ∀ (s : State) (i : Instr),
    decode [s.byteAt (min s.pc.toNat 0x0FFF), s.byteAt (min (s.pc.toNat + 1) 0x0FFF)] = .ok (i, []) →
    step s =
      match exec i { s with report := none, beep := false } with
      | .next t => .next t.tick
      | .fault r => .fault r
      | .refused r => .refused r

/-- An unrecognized word is reported with its address, `pc` advances by 2, the tick runs, and nothing else changes
(30_encoding.md R68). The report's form and the one-step beep are the spec's decisions D21 and D31 (log entry 22), and
that the tick comes after the report is its decision D2 (log entry 21). Which words are unrecognized rests on D9, D28
and D29 (log entry 14). -/
def Obligations.UnrecognizedWordIsAReportedNoop : Prop :=
  ∀ (s : State) (e : Reject), decodeWord s.fetchWord = .error e →
    ∃ t, step s = .next t ∧ t.report = some ⟨.unrecognized, s.pc, s.fetchWord⟩ ∧ t.pc = s.pc + 2 ∧
      t.DT.toNat = s.DT.toNat - 1 ∧ t.ST.toNat = s.ST.toNat - 1 ∧ t.beep = decide (s.ST.toNat = 1) ∧
      OnlyChanges (· ∈ [.pc, .DT, .ST, .report, .beep]) s t

/-- Every step completes with a next state, from every state: none faults and none is refused. That no condition stops
a step is read from 60_exceptions.md R135 (log entry 7), and it rests on the clamp, D3 and D4 (log entry 10), and on
the effect of a stack report, D6 (log entry 12). -/
def Obligations.EveryStepCompletes : Prop :=
  ∀ s : State, ∃ t, step s = .next t

/-- Where every instruction leaves `pc`, and that an unrecognized word advances it by 2 (10_state.md R19). Taking `pc`
modulo 2^16 is the spec's decision D4 (log entry 10); the two stack policies and the effect after a stack report are D6
(log entry 12); SYS, BNNN and which skips test equality are D9, D28 and D30 (log entry 14); the key a value of 16 or
more names and the keys FX0A scans are D13 and D14 (log entry 16). -/
def Obligations.ProgramCounterAdvances : Prop :=
  (∀ (i : Instr) (s : State), ∃ t, exec i s = .next t ∧ t.pc =
    match i with
    | .jp nnn => nnn.setWidth 16
    | .jpV0 nnn => nnn.setWidth 16 + (s.getV 0).setWidth 16
    | .call nnn => if s.cfg.stackPolicy = .report ∧ s.SP.val = 16 then s.pc + 2 else nnn.setWidth 16
    | .ret =>
      match s.cfg.stackPolicy with
      | .report => if s.SP.val = 0 then s.pc + 2 else s.stackAt (s.SP.val - 1) + 2
      | .wrap => s.stackAt ((s.SP.val + 15) % 16) + 2
    | .seImm x nn => if s.getV x = nn then s.pc + 4 else s.pc + 2
    | .sneImm x nn => if s.getV x = nn then s.pc + 2 else s.pc + 4
    | .seReg x y _ => if s.getV x = s.getV y then s.pc + 4 else s.pc + 2
    | .sneReg x y _ => if s.getV x = s.getV y then s.pc + 2 else s.pc + 4
    | .skp x => if s.Key.getLsbD (min (s.getV x).toNat 15) then s.pc + 4 else s.pc + 2
    | .sknp x => if s.Key.getLsbD (min (s.getV x).toNat 15) then s.pc + 2 else s.pc + 4
    | .ldVxK _ =>
      if ∀ k : Reg, k.val < scannedKeys s.cfg → s.Key.getLsbD k.val = false then s.pc else s.pc + 2
    | _ => s.pc + 2) ∧
  (∀ (s : State) (e : Reject), decodeWord s.fetchWord = .error e → ∃ t, step s = .next t ∧ t.pc = s.pc + 2)

/-- The tick ends every step, whatever its word: each timer that is above 0 after execute falls by 1, and the beep
fires exactly when the sound timer was 1 (60_exceptions.md R126). FX15 and FX18 are the words that set a timer in
execute. That the tick follows execute is the spec's decision D2 (log entry 21), and the beep as a one-step pulse is
its decision D31 (log entry 22). -/
def Obligations.TimerTickEndsEveryStep : Prop :=
  ∀ s : State, ∃ t, step s = .next t ∧
    (t.DT.toNat =
      match decodeWord s.fetchWord with
      | .ok (.ldDTVx x) => (s.getV x).toNat - 1
      | _ => s.DT.toNat - 1) ∧
    (t.ST.toNat =
      match decodeWord s.fetchWord with
      | .ok (.ldSTVx x) => (s.getV x).toNat - 1
      | _ => s.ST.toNat - 1) ∧
    (t.beep = true ↔
      match decodeWord s.fetchWord with
      | .ok (.ldSTVx x) => (s.getV x).toNat = 1
      | _ => s.ST.toNat = 1)

/-- The report output of every step: an unrecognized word, a CALL on a full stack and a RET on an empty one under
`REPORT` give their kind, address and word, and every other step gives none. The form of a report is the spec's
decision D21, and the stack policies are its decision D6. Log entries 22 and 12. Which words are unrecognized rests on
D9, D28 and D29 (log entry 14). -/
def Obligations.ReportOutputOfEveryStep : Prop :=
  ∀ s : State, ∃ t, step s = .next t ∧ t.report =
    match decodeWord s.fetchWord with
    | .error _ => some ⟨.unrecognized, s.pc, s.fetchWord⟩
    | .ok (.call _) =>
      if s.cfg.stackPolicy = .report ∧ s.SP.val = 16 then some ⟨.stackOverflow, s.pc, s.fetchWord⟩ else none
    | .ok .ret =>
      if s.cfg.stackPolicy = .report ∧ s.SP.val = 0 then some ⟨.stackUnderflow, s.pc, s.fetchWord⟩ else none
    | .ok _ => none

/-- Two steps from the same state, configuration and random byte give the same state and the same outputs, whatever
the outputs of the step before were; and the step is R38's function of these three. The random byte as an input is the
spec's decision D20; that the state carries the configuration, the outputs and the random input is the model's choice
(log entries 1, 2 and 3). -/
def Obligations.StepIsAFunctionOfStateConfigAndInput : Prop :=
  (∀ s s' : State, s.toArch = s'.toArch → s.cfg = s'.cfg → s.rndByte = s'.rndByte →
    ∃ t t', step s = .next t ∧ step s' = .next t' ∧ t.toArch = t'.toArch ∧ t.outputs = t'.outputs) ∧
  (∀ s : State, ∃ t, step s = .next t ∧ stepFn s.cfg s.toArch ⟨s.rndByte⟩ = some (t.toArch, t.outputs))

/-! ## Control flow -/

/-- SYS does nothing but advance; JP and JP V0 go where they say, with no alignment and no bound on the target. SYS
and BNNN are the spec's decisions D9 and D30. Log entry 14. That no target is aligned or bounded is D4 (log entry 10).
-/
def Obligations.SysAndJumps : Prop :=
  ∀ (nnn : Addr12) (s : State),
    (∃ t, exec (.sys nnn) s = .next t ∧ t.pc = s.pc + 2 ∧ OnlyChanges (· ∈ [.pc]) s t) ∧
    (∃ t, exec (.jp nnn) s = .next t ∧ t.pc.toNat = nnn.toNat ∧ OnlyChanges (· ∈ [.pc]) s t) ∧
    (∃ t, exec (.jpV0 nnn) s = .next t ∧ t.pc.toNat = nnn.toNat + (s.getV 0).toNat ∧
      OnlyChanges (· ∈ [.pc]) s t)

/-- The four register skips: 4 when the tested condition holds and 2 otherwise, `n` ignored, and nothing else changes.
Which family tests equality is the spec's general knowledge (decision D28). The ignored n is D29 (log entry 14 has
both), and pc modulo 2^16 is D4 (log entry 10). -/
def Obligations.RegisterSkips : Prop :=
  ∀ (x y : Reg) (nn : Byte) (n : Nibble) (s : State),
    ∀ p ∈ [(Instr.seImm x nn, decide ((s.getV x).toNat = nn.toNat)),
           (.sneImm x nn, decide ((s.getV x).toNat ≠ nn.toNat)),
           (.seReg x y n, decide ((s.getV x).toNat = (s.getV y).toNat)),
           (.sneReg x y n, decide ((s.getV x).toNat ≠ (s.getV y).toNat))],
      ∃ t, exec p.1 s = .next t ∧ t.pc.toNat = (s.pc.toNat + if p.2 then 4 else 2) % 0x10000 ∧
        OnlyChanges (· ∈ [.pc]) s t

/-- CALL pushes its own address into `Stack[SP mod 16]`, moves SP up (modulo 16 under `WRAP`) and jumps; only a full
stack under `REPORT` keeps it from that, and there it advances and reports. The two policies are the spec's decision
D6. Log entry 12. The report's form is D21 (log entry 22), and its word is the instruction's encoding (log entry 8).
-/
def Obligations.CallPushesItsAddressAndJumps : Prop :=
  ∀ (nnn : Addr12) (s : State),
    (¬ (s.cfg.stackPolicy = .report ∧ s.SP.val = 16) →
      ∃ t, exec (.call nnn) s = .next t ∧ t.stackAt (s.SP.val % 16) = s.pc ∧
        t.SP.val = (match s.cfg.stackPolicy with | .report => s.SP.val + 1 | .wrap => (s.SP.val + 1) % 16) ∧
        t.pc.toNat = nnn.toNat ∧
        OnlyChanges (· ∈ [.pc, .SP, .stack ⟨s.SP.val % 16, Nat.mod_lt _ (Nat.zero_lt_succ 15)⟩]) s t) ∧
    (s.cfg.stackPolicy = .report ∧ s.SP.val = 16 →
      ∃ t, exec (.call nnn) s = .next t ∧ t.report = some ⟨.stackOverflow, s.pc, encode (.call nnn)⟩ ∧
        t.pc = s.pc + 2 ∧ OnlyChanges (· ∈ [.pc, .report]) s t)

/-- RET moves SP down (modulo 16 under `WRAP`) and goes to the saved address + 2, clearing no entry; only an empty
stack under `REPORT` keeps it from that, and there it advances and reports. The two policies are the spec's decision
D6. Log entry 12. The report's form is D21 (log entry 22), and pc modulo 2^16 is D4 (log entry 10). -/
def Obligations.RetPopsAndReturnsPastTheCall : Prop :=
  ∀ s : State,
    (¬ (s.cfg.stackPolicy = .report ∧ s.SP.val = 0) →
      ∃ t, exec .ret s = .next t ∧
        t.SP.val = (match s.cfg.stackPolicy with | .report => s.SP.val - 1 | .wrap => (s.SP.val + 15) % 16) ∧
        t.pc.toNat = ((s.stackAt t.SP.val).toNat + 2) % 0x10000 ∧ OnlyChanges (· ∈ [.pc, .SP]) s t) ∧
    (s.cfg.stackPolicy = .report ∧ s.SP.val = 0 →
      ∃ t, exec .ret s = .next t ∧ t.report = some ⟨.stackUnderflow, s.pc, 0x00EE⟩ ∧
        t.pc = s.pc + 2 ∧ OnlyChanges (· ∈ [.pc, .report]) s t)

/-- A RET right after a CALL that pushed goes back past the CALL and leaves SP as it was, under either policy. The
range 0 to 16 of SP under REPORT and the arithmetic of WRAP are the spec's decision D6 (log entry 12), and pc modulo
2^16 is D4 (log entry 10). -/
def Obligations.RetUndoesCall : Prop :=
  ∀ (nnn : Addr12) (s t u : State), s.SP.val < 16 → exec (.call nnn) s = .next t → exec .ret t = .next u →
    u.pc = s.pc + 2 ∧ u.SP = s.SP ∧ u.report = s.report

/-! ## Registers and arithmetic -/

/-- The seven flag writers leave in VF exactly the flag of the table, computed from the old operands and also when VF
is the destination; every other instruction leaves VF alone unless VF is its destination (10_state.md R16). FX1E's
VF = 0 is the spec's decision D5 (log entry 11); that the shifts act on Vx, and that 7XNN and the logical operations
leave VF alone, are D7 and D8 (log entry 13); DRW's bit and toggle order and n = 0 are D10 and D11 (log entry 15), and
its memory clamp is D3 (log entry 10). -/
def Obligations.VfIsWrittenAsAFlagByExactlySeven : Prop :=
  ∀ (i : Instr) (s : State), ∃ t, exec i s = .next t ∧
    match i with
    | .addReg x y => t.getV 15 = if (s.getV x).toNat + (s.getV y).toNat ≥ 256 then 1 else 0
    | .subReg x y => t.getV 15 = if (s.getV x).toNat ≥ (s.getV y).toNat then 1 else 0
    | .shr x _ => t.getV 15 = if (s.getV x).toNat % 2 = 1 then 1 else 0
    | .subnReg x y => t.getV 15 = if (s.getV y).toNat ≥ (s.getV x).toNat then 1 else 0
    | .shl x _ => t.getV 15 = if (s.getV x).toNat ≥ 128 then 1 else 0
    | .addI x => t.getV 15 = if s.I.toNat + (s.getV x).toNat > 0x0FFF then 1 else 0
    | .drw x y n =>
      (TogglesCollide s (spriteToggles s (s.getV x).toNat (s.getV y).toNat n.toNat) → t.getV 15 = 1) ∧
      (¬ TogglesCollide s (spriteToggles s (s.getV x).toNat (s.getV y).toNat n.toNat) → t.getV 15 = 0)
    | .ldImm x _ => x ≠ 15 → t.getV 15 = s.getV 15
    | .addImm x _ => x ≠ 15 → t.getV 15 = s.getV 15
    | .ldReg x _ => x ≠ 15 → t.getV 15 = s.getV 15
    | .orReg x _ => x ≠ 15 → t.getV 15 = s.getV 15
    | .andReg x _ => x ≠ 15 → t.getV 15 = s.getV 15
    | .xorReg x _ => x ≠ 15 → t.getV 15 = s.getV 15
    | .rnd x _ => x ≠ 15 → t.getV 15 = s.getV 15
    | .ldVxDT x => x ≠ 15 → t.getV 15 = s.getV 15
    | .ldVxK x => x ≠ 15 → t.getV 15 = s.getV 15
    | .loadRegs x => x ≠ 15 → t.getV 15 = s.getV 15
    | _ => t.getV 15 = s.getV 15

/-- The six that write one register and no flag. That 7XNN and the three logical operations leave VF alone is the
spec's decision D8. Log entry 13. -/
def Obligations.FlaglessRegisterWrites : Prop :=
  ∀ (x y : Reg) (nn : Byte) (s : State),
    ∀ p ∈ [(Instr.ldImm x nn, nn), (.addImm x nn, s.getV x + nn), (.ldReg x y, s.getV y),
           (.orReg x y, s.getV x ||| s.getV y), (.andReg x y, s.getV x &&& s.getV y),
           (.xorReg x y, s.getV x ^^^ s.getV y)],
      ∃ t, exec p.1 s = .next t ∧ t.getV x = p.2 ∧ t.pc = s.pc + 2 ∧ OnlyChanges (· ∈ [.V x, .pc]) s t

/-- R90: 8XY4 is ADD Vx, Vy: the sum modulo 256, then the carry to VF, which overwrites the sum when x = 0xF. -/
def Obligations.AddWithCarryOut : Prop :=
  ∀ (x y : Reg) (s : State),
    decodeWord (BitVec.ofNat 16 (0x8004 + 0x100 * x.val + 0x10 * y.val)) = .ok (.addReg x y) ∧
    ∃ t, exec (.addReg x y) s = .next t ∧
      (x ≠ 15 → (t.getV x).toNat = ((s.getV x).toNat + (s.getV y).toNat) % 256) ∧
      t.getV 15 = (if (s.getV x).toNat + (s.getV y).toNat > 0xFF then 1 else 0) ∧
      t.pc = s.pc + 2 ∧ OnlyChanges (· ∈ [.V x, .V 15, .pc]) s t

/-- 8XY5 and 8XY7 subtract in both directions modulo 256, then VF is 1 when no borrow occurs, and so when the operands
are equal. The last point the spec marks as derived from the widened intermediate. Log entry 13. -/
def Obligations.SubtractWithNotBorrow : Prop :=
  ∀ (x y : Reg) (s : State),
    ∀ p ∈ [(Instr.subReg x y, s.getV x, s.getV y), (.subnReg x y, s.getV y, s.getV x)],
      ∃ t, exec p.1 s = .next t ∧
        (x ≠ 15 → t.getV x = p.2.1 - p.2.2) ∧
        t.getV 15 = (if p.2.1.toNat < p.2.2.toNat then 0 else 1) ∧
        t.pc = s.pc + 2 ∧ OnlyChanges (· ∈ [.V x, .V 15, .pc]) s t

/-- 8XY6 and 8XYE shift Vx by one and leave the bit shifted out in VF; Vy is not read. That the operand is Vx is the
spec's decision D7. Log entry 13. -/
def Obligations.ShiftsActOnVxInPlace : Prop :=
  ∀ (x y : Reg) (s : State),
    (∃ t, exec (.shr x y) s = .next t ∧ (x ≠ 15 → t.getV x = s.getV x >>> 1) ∧
      t.getV 15 = (if (s.getV x).getLsbD 0 then 1 else 0) ∧
      t.pc = s.pc + 2 ∧ OnlyChanges (· ∈ [.V x, .V 15, .pc]) s t) ∧
    (∃ t, exec (.shl x y) s = .next t ∧ (x ≠ 15 → t.getV x = s.getV x <<< 1) ∧
      t.getV 15 = (if (s.getV x).getLsbD 7 then 1 else 0) ∧
      t.pc = s.pc + 2 ∧ OnlyChanges (· ∈ [.V x, .V 15, .pc]) s t)

/-- CXNN writes the masked random byte: the host's next byte, and where the host's is not given a free value, about
which nothing is known (decision D20; the queue and the counter are the model's, log entry 3). -/
def Obligations.RandomByteUnderMask : Prop :=
  ∀ (x : Reg) (nn : Byte) (s : State), ∃ t, exec (.rnd x nn) s = .next t ∧ t.pc = s.pc + 2 ∧
    (∀ b rest, s.rndIn = b :: rest → t.getV x = b &&& nn ∧ t.rndIn = rest ∧ t.draws = s.draws) ∧
    (s.rndIn = [] → t.getV x = Config.freeRnd s.draws &&& nn ∧ t.rndIn = [] ∧ t.draws = s.draws + 1) ∧
    OnlyChanges (· ∈ [.V x, .pc, .rndIn, .draws]) s t

/-! ## Index register and memory -/

/-- ANNN loads I with the address, and FX29 with five times Vx, unmasked and without the font base (decision D16). Log
entry 18. -/
def Obligations.IndexLoads : Prop :=
  ∀ (x : Reg) (nnn : Addr12) (s : State),
    (∃ t, exec (.ldI nnn) s = .next t ∧ t.I.toNat = nnn.toNat ∧ t.pc = s.pc + 2 ∧
      OnlyChanges (· ∈ [.I, .pc]) s t) ∧
    (∃ t, exec (.ldF x) s = .next t ∧ t.I.toNat = 5 * (s.getV x).toNat ∧ t.pc = s.pc + 2 ∧
      OnlyChanges (· ∈ [.I, .pc]) s t)

/-- FX1E adds Vx to I modulo 2^16 and writes VF both ways: 1 when the untruncated sum passes 12 bits (decision D5).
Log entry 11. -/
def Obligations.AddToIndexFlagsTwelveBitOverflow : Prop :=
  ∀ (x : Reg) (s : State), ∃ t, exec (.addI x) s = .next t ∧
    t.I.toNat = (s.I.toNat + (s.getV x).toNat) % 0x10000 ∧
    t.getV 15 = (if 0x0FFF < s.I.toNat + (s.getV x).toNat then 1 else 0) ∧
    t.pc = s.pc + 2 ∧ OnlyChanges (· ∈ [.I, .V 15, .pc]) s t

/-- FX33 stores the hundreds, tens and ones digits at I, I + 1 and I + 2, each clamped, a later write winning over an
earlier one at the same byte, and every other byte reads as before (the clamp is decision D3). Log entry 10. -/
def Obligations.BcdStoresThreeDigits : Prop :=
  ∀ (x : Reg) (s : State), ∃ t, exec (.ldB x) s = .next t ∧ t.pc = s.pc + 2 ∧
    (∀ a, (t.byteAt a).toNat =
      if a = clampA (s.I.toNat + 2) then (s.getV x).toNat % 10
      else if a = clampA (s.I.toNat + 1) then (s.getV x).toNat / 10 % 10
      else if a = clampA s.I.toNat then (s.getV x).toNat / 100
      else (s.byteAt a).toNat) ∧
    OnlyChanges (fun p => p = .pc ∨ ∃ k, k < 3 ∧ p = .byte (clampA (s.I.toNat + k))) s t

/-- FX55 stores V0 to Vx at I + k, each address clamped: a stored byte holds the highest register stored there, every
other byte reads as before, and I moves by x + 1 only under `BLOCK_INCREMENTS_I` (decisions D3 and D15). Log entries
10 and 17. -/
def Obligations.BlockStore : Prop :=
  ∀ (x : Reg) (s : State), ∃ t, exec (.storeRegs x) s = .next t ∧ t.pc = s.pc + 2 ∧
    (∀ k : Reg, k ≤ x → (∀ j : Reg, k < j → j ≤ x → clampA (s.I.toNat + j.val) ≠ clampA (s.I.toNat + k.val)) →
      t.byteAt (clampA (s.I.toNat + k.val)) = s.getV k) ∧
    t.I.toNat = (if s.cfg.blockIncrementsI then (s.I.toNat + x.val + 1) % 0x10000 else s.I.toNat) ∧
    OnlyChanges (fun p => p = .pc ∨ p = .I ∨ ∃ k : Reg, k ≤ x ∧ p = .byte (clampA (s.I.toNat + k.val))) s t

/-- FX65 loads V0 to Vx from I + k, each address clamped, leaves the other registers and all of memory, and moves I by
x + 1 only under `BLOCK_INCREMENTS_I` (decisions D3 and D15). Log entries 10 and 17. -/
def Obligations.BlockLoad : Prop :=
  ∀ (x : Reg) (s : State), ∃ t, exec (.loadRegs x) s = .next t ∧ t.pc = s.pc + 2 ∧
    (∀ k : Reg, k ≤ x → t.getV k = s.byteAt (clampA (s.I.toNat + k.val))) ∧
    t.I.toNat = (if s.cfg.blockIncrementsI then (s.I.toNat + x.val + 1) % 0x10000 else s.I.toNat) ∧
    OnlyChanges (fun p => p = .pc ∨ p = .I ∨ ∃ k : Reg, k ≤ x ∧ p = .V k) s t

/-- FX55 and then FX65 with the same x and I, on memory nothing else has changed, give back V0 to Vx, when x = 0 or no
address of the block is past the end of memory. With x = 0 and I past the end of memory it rests on the clamp, the
spec's decision D3 (log entry 10). -/
def Obligations.BlockRoundTrip : Prop :=
  ∀ (x : Reg) (s t q u : State), (x = 0 ∨ s.I.toNat + x.val < 0x1000) →
    exec (.storeRegs x) s = .next t → q.I = s.I → (∀ a, q.byteAt a = t.byteAt a) →
    exec (.loadRegs x) q = .next u → ∀ k : Reg, k ≤ x → u.getV k = s.getV k

/-- A store is fetched as written by the very next step (70_reset_and_hazards.md R144), for FX55 and FX33 at every I:
where a stored byte that no later one of the same step overwrites lies at either byte of the next word, that byte of
the next fetched word is the one stored. The block may cover the word or overlap it in part. That no flush is needed is
the spec's decision D23, and the clamp is D3 (log entry 10). -/
def Obligations.StoreIsSeenByTheNextFetch : Prop :=
  ∀ (x : Reg) (s : State),
    (decodeWord s.fetchWord = .ok (.storeRegs x) → ∃ t, step s = .next t ∧
      ∀ k : Reg, k ≤ x → (∀ j : Reg, k < j → j ≤ x → clampA (s.I.toNat + j.val) ≠ clampA (s.I.toNat + k.val)) →
        (clampA (s.I.toNat + k.val) = clampA (s.pc + 2).toNat →
          t.fetchWord.toNat / 0x100 = (s.getV k).toNat) ∧
        (clampA (s.I.toNat + k.val) = clampA ((s.pc + 2).toNat + 1) →
          t.fetchWord.toNat % 0x100 = (s.getV k).toNat)) ∧
    (decodeWord s.fetchWord = .ok (.ldB x) → ∃ t, step s = .next t ∧
      ∀ p ∈ [(0, (s.getV x).toNat / 100), (1, (s.getV x).toNat / 10 % 10), (2, (s.getV x).toNat % 10)],
        (∀ j, p.1 < j → j < 3 → clampA (s.I.toNat + j) ≠ clampA (s.I.toNat + p.1)) →
        (clampA (s.I.toNat + p.1) = clampA (s.pc + 2).toNat → t.fetchWord.toNat / 0x100 = p.2) ∧
        (clampA (s.I.toNat + p.1) = clampA ((s.pc + 2).toNat + 1) → t.fetchWord.toNat % 0x100 = p.2))

/-! ## Display -/

/-- R106: 00E0 is CLS: every cell 0, RP 1 whether or not a cell was on, `pc` advanced by 2, and nothing else. -/
def Obligations.ClearDisplay : Prop :=
  decodeWord 0x00E0 = .ok .cls ∧
  ∀ s : State, ∃ t, exec .cls s = .next t ∧ (∀ k, t.cell k = false) ∧ t.RP = true ∧ t.pc = s.pc + 2 ∧
    OnlyChanges (fun p => p = .RP ∨ p = .pc ∨ ∃ k, p = .cell k) s t

/-- DRW toggles each cell once for each set sprite bit that lands on it, reports in VF whether some toggle found its
cell at 1, sets RP (also for n = 0) and changes nothing else. The order of toggles and n = 0 are the spec's decisions
D10 and D11, and the memory clamp is D3. Log entries 15 and 10. -/
def Obligations.DrawSpriteByXor : Prop :=
  ∀ (x y : Reg) (n : Nibble) (s : State), ∃ t, exec (.drw x y n) s = .next t ∧
    (∀ k : Cell, t.cell k =
      (s.cell k ^^ decide ((spriteToggles s (s.getV x).toNat (s.getV y).toNat n.toNat).count k.val % 2 = 1))) ∧
    (t.getV 15 = 1 ↔ TogglesCollide s (spriteToggles s (s.getV x).toNat (s.getV y).toNat n.toNat)) ∧
    (t.getV 15 = 0 ↔ ¬ TogglesCollide s (spriteToggles s (s.getV x).toNat (s.getV y).toNat n.toNat)) ∧
    t.RP = true ∧ t.pc = s.pc + 2 ∧
    OnlyChanges (fun p => p = .V 15 ∨ p = .RP ∨ p = .pc ∨
      ∃ k : Cell, k.val ∈ spriteToggles s (s.getV x).toNat (s.getV y).toNat n.toNat ∧ p = .cell k) s t

/-- The same sprite drawn twice at the same place restores the framebuffer, and the second draw reports a collision
whenever some cell it toggles holds 1 after the first. Which cells are toggled rests on the spec's decisions D10 and
D11 (log entry 15) and on the clamp of the sprite reads, D3 (log entry 10). Only the direction that 43_display.md R110
states is claimed: SP3's 'if and only if' fails where pixels meet at cell 2047 (log entry 24). -/
def Obligations.DrawingTwiceRestoresTheFramebuffer : Prop :=
  ∀ (x y : Reg) (n : Nibble) (s t u : State), exec (.drw x y n) s = .next t → exec (.drw x y n) t = .next u →
    t.getV x = s.getV x → t.getV y = s.getV y →
    (∀ k, u.cell k = s.cell k) ∧
    ((∃ k : Cell, k.val ∈ spriteToggles s (s.getV x).toNat (s.getV y).toNat n.toNat ∧ t.cell k = true) →
      u.getV 15 = 1)

/-- Only a step of 00E0 or DXYN changes a cell or sets RP; 00E0 makes every cell 0 and DXYN toggles cells, and both
set RP; no move of the host changes a cell or sets RP (43_display.md R105). Which cells DXYN toggles rests on the
spec's decisions D10 and D11 (log entry 15) and on the clamp of its sprite reads, D3 (log entry 10). -/
def Obligations.FramebufferWritePortIsTheOnlyPath : Prop :=
  (∀ s t : State, step s = .next t →
    match decodeWord s.fetchWord with
    | .ok .cls => (∀ k, t.cell k = false) ∧ t.RP = true
    | .ok (.drw x y n) =>
      (∀ k : Cell, t.cell k =
        (s.cell k ^^ decide ((spriteToggles s (s.getV x).toNat (s.getV y).toNat n.toNat).count k.val % 2 = 1))) ∧
      t.RP = true
    | _ => (∀ k, t.cell k = s.cell k) ∧ t.RP = s.RP) ∧
  (∀ (m : HostMove) (s : State),
    (∀ k, (s.hostMove m).cell k = s.cell k) ∧ ((s.hostMove m).RP = true → s.RP = true))

/-- R150: the host's clear sets RP to 0, 00E0 and DXYN set it to 1, no step clears it, and no step does anything
different for its value. -/
def Obligations.RedrawFlagIsAHandshakeOnly : Prop :=
  (∀ s : State, (s.hostMove .clearRP).RP = false) ∧
  (∀ (x y : Reg) (n : Nibble) (s t : State), exec .cls s = .next t ∨ exec (.drw x y n) s = .next t → t.RP = true) ∧
  (∀ s t : State, step s = .next t → s.RP = true → t.RP = true) ∧
  (∀ (s t : State) (b : Bool), step s = .next t → ∃ b', step { s with RP := b } = .next { t with RP := b' })

/-! ## Keypad and timers -/

/-- FX0A takes the lowest held scanned key and advances; with none held it changes nothing at all, `pc` included. Key
15 is scanned only when the limit is 16 (decision D14). That a key is held by level is D25; log entry 16 has both. -/
def Obligations.KeyWaitTakesTheLowestHeldKey : Prop :=
  ∀ (x : Reg) (s : State),
    ((∀ k : Reg, k.val < scannedKeys s.cfg → s.held k = false) → exec (.ldVxK x) s = .next s) ∧
    (∀ k : Reg, k.val < scannedKeys s.cfg → s.held k = true → (∀ j : Reg, j < k → s.held j = false) →
      ∃ t, exec (.ldVxK x) s = .next t ∧ (t.getV x).toNat = k.val ∧ t.pc = s.pc + 2 ∧
        OnlyChanges (· ∈ [.V x, .pc]) s t)

/-- EX9E skips when the key named by Vx is held and EXA1 when it is not; a value of 16 or more names key 15 (decision
D13), which both read. Log entry 16. -/
def Obligations.KeySkips : Prop :=
  ∀ (x k : Reg) (s : State), ((s.getV x).toNat = k.val ∨ (16 ≤ (s.getV x).toNat ∧ k = 15)) →
    (∃ t, exec (.skp x) s = .next t ∧ t.pc = (if s.held k then s.pc + 4 else s.pc + 2) ∧
      OnlyChanges (· ∈ [.pc]) s t) ∧
    (∃ t, exec (.sknp x) s = .next t ∧ t.pc = (if s.held k then s.pc + 2 else s.pc + 4) ∧
      OnlyChanges (· ∈ [.pc]) s t)

/-- FX07 reads DT before the step's tick, and FX15 and FX18 set DT and ST, which the tick of the same step follows
(decision D2). Log entry 21. -/
def Obligations.TimerMoves : Prop :=
  ∀ (x : Reg) (s : State),
    (∃ t, exec (.ldVxDT x) s = .next t ∧ t.getV x = s.DT ∧ t.pc = s.pc + 2 ∧
      OnlyChanges (· ∈ [.V x, .pc]) s t) ∧
    (∃ t, exec (.ldDTVx x) s = .next t ∧ t.DT = s.getV x ∧ t.pc = s.pc + 2 ∧
      OnlyChanges (· ∈ [.DT, .pc]) s t) ∧
    (∃ t, exec (.ldSTVx x) s = .next t ∧ t.ST = s.getV x ∧ t.pc = s.pc + 2 ∧
      OnlyChanges (· ∈ [.ST, .pc]) s t)

/-- No instruction reads ST and none writes Key; only FX0A, EX9E and EXA1 read Key: every other instruction does the
same whatever the latch holds. That the latch is read by level, as the host left it, is the spec's decision D25 (log
entry 16). -/
def Obligations.SoundTimerIsUnreadAndKeypadUnwritten : Prop :=
  ∀ (i : Instr) (s t : State), exec i s = .next t →
    t.Key = s.Key ∧
    (∀ v : Byte, exec i { s with ST := v } =
      .next (match i with | .ldSTVx _ => t | _ => { t with ST := v })) ∧
    (∀ q : BitVec 16, (∀ x, i ≠ .ldVxK x ∧ i ≠ .skp x ∧ i ≠ .sknp x) →
      exec i { s with Key := q } = .next { t with Key := q })

/-! ## The whole machine -/

/-- What each of the 35 instructions may change, and nothing else: the read and write table of 10_state.md, with SP,
the pushed entry and the report for CALL, and SP and the report for RET. The bytes stored to are computed with
`clampA` from I, the entry with SP modulo 16, and the cells with `spriteToggles`. The clamp is the spec's decision D3
(log entry 10), the increment of I is D15 (log entry 17), and DRW's bit order is D10 (log entry 15). That 7XNN and the
logical operations leave VF alone is D8 (log entry 13); the reports of CALL and RET, and what those two change
otherwise, are D6 and D21 (log entries 12 and 22); that SYS and BNNN change pc alone is D9 and D30 (log entry 14); n =
0 of DRW is D11 (log entry 15); the random queue and its counter are the model's (log entry 3). -/
def Obligations.EachInstructionWritesOnlyItsTableRow : Prop :=
  ∀ (i : Instr) (s t : State), exec i s = .next t → OnlyChanges (fun p => p = .pc ∨
    match i with
    | .sys _ => False
    | .cls => p = .RP ∨ ∃ k, p = .cell k
    | .ret => p = .SP ∨ p = .report
    | .jp _ => False
    | .call _ => p = .SP ∨ p = .report ∨ p = .stack ⟨s.SP.val % 16, Nat.mod_lt _ (Nat.zero_lt_succ 15)⟩
    | .seImm _ _ => False
    | .sneImm _ _ => False
    | .seReg _ _ _ => False
    | .ldImm x _ => p = .V x
    | .addImm x _ => p = .V x
    | .ldReg x _ => p = .V x
    | .orReg x _ => p = .V x
    | .andReg x _ => p = .V x
    | .xorReg x _ => p = .V x
    | .addReg x _ => p = .V x ∨ p = .V 15
    | .subReg x _ => p = .V x ∨ p = .V 15
    | .shr x _ => p = .V x ∨ p = .V 15
    | .subnReg x _ => p = .V x ∨ p = .V 15
    | .shl x _ => p = .V x ∨ p = .V 15
    | .sneReg _ _ _ => False
    | .ldI _ => p = .I
    | .jpV0 _ => False
    | .rnd x _ => p = .V x ∨ p = .rndIn ∨ p = .draws
    | .drw x y n => p = .V 15 ∨ p = .RP ∨
      ∃ k : Cell, k.val ∈ spriteToggles s (s.getV x).toNat (s.getV y).toNat n.toNat ∧ p = .cell k
    | .skp _ => False
    | .sknp _ => False
    | .ldVxDT x => p = .V x
    | .ldVxK x => p = .V x
    | .ldDTVx _ => p = .DT
    | .ldSTVx _ => p = .ST
    | .addI _ => p = .I ∨ p = .V 15
    | .ldF _ => p = .I
    | .ldB _ => ∃ k, k < 3 ∧ p = .byte (clampA (s.I.toNat + k))
    | .storeRegs x => (p = .I ∧ s.cfg.blockIncrementsI = true) ∨
      ∃ k : Reg, k ≤ x ∧ p = .byte (clampA (s.I.toNat + k.val))
    | .loadRegs x => (p = .I ∧ s.cfg.blockIncrementsI = true) ∨ ∃ k : Reg, k ≤ x ∧ p = .V k) s t

/-- Every step keeps the invariant of 10_state.md R33: the canonical form of memory, and SP in the range of its
policy. The form is the model's (log entry 6), and the ranges of SP are the spec's decision D6 (log entry 12). -/
def Obligations.EveryStepKeepsTheInvariant : Prop :=
  ∀ s t : State, Inv s → step s = .next t → Inv t

/-- Every move of the host keeps the same invariant. The form is the model's (log entry 6), the ranges of SP are the
spec's decision D6 (log entry 12), an oversize load is D19 (log entry 20), and that these are the host's moves is D1
(log entry 23); the random input is the model's (log entry 3). -/
def Obligations.EveryHostMoveKeepsTheInvariant : Prop :=
  ∀ (m : HostMove) (s : State), Inv s → Inv (s.hostMove m)

/-- The invariant holds at reset, under every configuration. The canonical form is the model's (log entry 6), the
ranges of SP are the spec's decision D6 (log entry 12), and the default configuration is the one of R6 (log entry 9).
-/
def Obligations.ResetHasTheInvariant : Prop :=
  Inv State.reset ∧ ∀ c : Config, Inv (State.resetWith c)

/-- What reset leaves under every configuration; the 80 font bytes are written out from 20_memory.md R47, digit after
digit. The zeros of I, FB, Key and RP are the spec's decision D18 (log entry 19), the place of the font and its bytes
are D16 and D17 (log entry 18); that no report and no beep stands there, that no random byte waits and that the draw
counter is 0 are the model's choices (log entries 2 and 3), and nothing is stated here about those. -/
def Obligations.ResetLeavesTheStatedValues : Prop :=
  ∀ (c : Config), let s := State.resetWith c
    (∀ r, s.getV r = 0) ∧ s.I = 0 ∧ s.pc = 0x200 ∧ s.SP = 0 ∧ (∀ j, s.stackAt j = 0) ∧ s.DT = 0 ∧ s.ST = 0 ∧
    (∀ k, s.cell k = false) ∧ (∀ k, s.held k = false) ∧ s.RP = false ∧ s.cfg = c ∧
    (∀ a, (a < c.fontBase.val ∨ c.fontBase.val + 80 ≤ a) → s.byteAt a = 0) ∧
    (∀ a, 0x200 ≤ a → s.byteAt a = 0) ∧
    (∀ a, a < 80 → s.byteAt (c.fontBase.val + a) =
      ([0xF0, 0x90, 0x90, 0x90, 0xF0] ++ [0x20, 0x60, 0x20, 0x20, 0x70] ++
        [0xF0, 0x10, 0xF0, 0x80, 0xF0] ++ [0xF0, 0x10, 0xF0, 0x10, 0xF0] ++
        [0x90, 0x90, 0xF0, 0x10, 0x10] ++ [0xF0, 0x80, 0xF0, 0x10, 0xF0] ++
        [0xF0, 0x80, 0xF0, 0x90, 0xF0] ++ [0xF0, 0x10, 0x20, 0x40, 0x40] ++
        [0xF0, 0x90, 0xF0, 0x90, 0xF0] ++ [0xF0, 0x90, 0xF0, 0x10, 0xF0] ++
        [0xF0, 0x90, 0xF0, 0x90, 0x90] ++ [0xE0, 0x90, 0xE0, 0x90, 0xE0] ++
        [0xF0, 0x80, 0x80, 0x80, 0xF0] ++ [0xE0, 0x90, 0x90, 0x90, 0xE0] ++
        [0xF0, 0x80, 0xF0, 0x80, 0xF0] ++ [0xF0, 0x80, 0xF0, 0x80, 0x80] : List Byte).getD a 0)

/-- No step and no move of the host changes the configuration (the choice to carry it in the state is the model's, log
entry 1). That these are the host's moves is the spec's decision D1 (log entry 23). -/
def Obligations.ConfigurationNeverChanges : Prop :=
  (∀ s t : State, step s = .next t → t.cfg = s.cfg) ∧ (∀ (m : HostMove) (s : State), (s.hostMove m).cfg = s.cfg)

/-- A JP to its own address repeats: the step changes nothing but the timers and the outputs, and the machine is at
the same self-loop again. That every step ticks the timers after execute is the spec's decision D2 (log entry 21), and
the clamp of the fetch is D3 (log entry 10). -/
def Obligations.SelfLoopRepeatsWhileTheTimersRun : Prop :=
  ∀ s : State, s.pc.toNat ≤ 0x0FFF → s.fetchWord = 0x1000 ||| s.pc →
    ∃ t, step s = .next t ∧ t.pc = s.pc ∧ t.fetchWord = s.fetchWord ∧ t.report = none ∧
      t.DT.toNat = s.DT.toNat - 1 ∧ t.ST.toNat = s.ST.toNat - 1 ∧
      OnlyChanges (· ∈ [.DT, .ST, .report, .beep]) s t

/-! ## The host's ports -/

/-- The host writes Key, RP and the bytes from 0x200 on, and nothing else; the bytes of the `rnd` port are its inputs
to steps to come. What the host may do, and only between steps, is the spec's decision D1 (log entry 23), an oversize
load is D19 (log entry 20), and the queue of random bytes is the model's (log entry 3). -/
def Obligations.TheHostWritesNothingElse : Prop :=
  ∀ (m : HostMove) (s : State), OnlyChanges (fun p =>
    match m with
    | .load _ => ∃ a, 0x200 ≤ a ∧ a ≤ 0x0FFF ∧ p = .byte a
    | .setKey k _ => p = .key k
    | .clearRP => p = .RP
    | .supplyRnd _ => p = .rndIn) s (s.hostMove m)

/-- The loader writes an image of at most 3584 bytes at 0x200; a longer one is refused whole under `REJECT` and cut to
3584 bytes under `TRUNCATE` (decision D19). Log entry 20. -/
def Obligations.LoaderPlacesTheImage : Prop :=
  ∀ (image : List Byte) (s : State),
    ((image.length ≤ 3584 ∨ s.cfg.loadOversize = .truncate) →
      (∀ k b, k < 3584 → image[k]? = some b → (s.load image).byteAt (0x200 + k) = b) ∧
      (∀ a, (a < 0x200 ∨ 0x1000 ≤ a ∨ 0x200 + image.length ≤ a) → (s.load image).byteAt a = s.byteAt a)) ∧
    (3584 < image.length → s.cfg.loadOversize = .reject → s.load image = s)

/-- The keypad port sets one bit and leaves the others, and a key pressed and released between two steps, with no step
in between, leaves the machine as it was. The port is the spec's decision D1 (log entry 23), and that a key is held by
level is D25 (log entry 16). -/
def Obligations.KeypadPortSetsOneBit : Prop :=
  ∀ (k : Reg) (v : Bool) (s : State),
    (s.hostMove (.setKey k v)).held k = v ∧ (∀ j, j ≠ k → (s.hostMove (.setKey k v)).held j = s.held j) ∧
    (s.held k = false → (s.hostMove (.setKey k true)).hostMove (.setKey k false) = s)
end

