-- ==== Sys2Proof/Laws/Decode.lean ====
section
/-! SUPPORT. The fields of the words that the encoder builds, the word that its fields build, and the two byte halves
of a word. -/

namespace Sys2Proof

theorem toNat_append_add {m n : Nat} (a : BitVec m) (b : BitVec n) : (a ++ b).toNat = a.toNat * 2 ^ n + b.toNat := by
  rw [BitVec.toNat_append, Nat.shiftLeft_eq, ← Nat.shiftLeft_eq, Nat.shiftLeft_add_eq_or_of_lt b.isLt]

theorem famOf_toNat (w : Word) : (famOf w).toNat = w.toNat / 0x1000 % 16 := by
  simp [famOf, Nat.shiftRight_eq_div_pow]
theorem xOf_val (w : Word) : (xOf w).val = w.toNat / 0x100 % 16 := by
  simp [xOf, Nat.shiftRight_eq_div_pow]
theorem yOf_val (w : Word) : (yOf w).val = w.toNat / 0x10 % 16 := by
  simp [yOf, Nat.shiftRight_eq_div_pow]
theorem nOf_toNat (w : Word) : (nOf w).toNat = w.toNat % 16 := by
  simp [nOf]
theorem nnOf_toNat (w : Word) : (nnOf w).toNat = w.toNat % 0x100 := by
  simp [nnOf]
theorem nnnOf_toNat (w : Word) : (nnnOf w).toNat = w.toNat % 0x1000 := by
  simp [nnnOf]

theorem wordNNN_toNat (f : Nibble) (nnn : Addr12) : (wordNNN f nnn).toNat = f.toNat * 0x1000 + nnn.toNat := by
  exact toNat_append_add f nnn
theorem wordXNN_toNat (f : Nibble) (x : Reg) (nn : Byte) :
    (wordXNN f x nn).toNat = f.toNat * 0x1000 + x.val * 0x100 + nn.toNat := by
  have h : (wordXNN f x nn).toNat = (f ++ regBits x ++ nn).toNat := rfl
  rw [h, toNat_append_add, toNat_append_add]
  simp only [regBits, BitVec.toNat_ofFin]
  omega
theorem wordXYN_toNat (f : Nibble) (x y : Reg) (n : Nibble) :
    (wordXYN f x y n).toNat = f.toNat * 0x1000 + x.val * 0x100 + y.val * 0x10 + n.toNat := by
  have h : (wordXYN f x y n).toNat = (f ++ regBits x ++ regBits y ++ n).toNat := rfl
  rw [h, toNat_append_add, toNat_append_add, toNat_append_add]
  simp only [regBits, BitVec.toNat_ofFin]
  omega

@[simp] theorem famOf_wordNNN (f : Nibble) (nnn : Addr12) : famOf (wordNNN f nnn) = f := by
  apply BitVec.eq_of_toNat_eq; rw [famOf_toNat, wordNNN_toNat]; omega
@[simp] theorem nnnOf_wordNNN (f : Nibble) (nnn : Addr12) : nnnOf (wordNNN f nnn) = nnn := by
  apply BitVec.eq_of_toNat_eq; rw [nnnOf_toNat, wordNNN_toNat]; omega
@[simp] theorem famOf_wordXNN (f : Nibble) (x : Reg) (nn : Byte) : famOf (wordXNN f x nn) = f := by
  apply BitVec.eq_of_toNat_eq; rw [famOf_toNat, wordXNN_toNat]; omega
@[simp] theorem xOf_wordXNN (f : Nibble) (x : Reg) (nn : Byte) : xOf (wordXNN f x nn) = x := by
  apply Fin.ext; rw [xOf_val, wordXNN_toNat]; omega
@[simp] theorem nnOf_wordXNN (f : Nibble) (x : Reg) (nn : Byte) : nnOf (wordXNN f x nn) = nn := by
  apply BitVec.eq_of_toNat_eq; rw [nnOf_toNat, wordXNN_toNat]; omega
@[simp] theorem famOf_wordXYN (f : Nibble) (x y : Reg) (n : Nibble) : famOf (wordXYN f x y n) = f := by
  apply BitVec.eq_of_toNat_eq; rw [famOf_toNat, wordXYN_toNat]; omega
@[simp] theorem xOf_wordXYN (f : Nibble) (x y : Reg) (n : Nibble) : xOf (wordXYN f x y n) = x := by
  apply Fin.ext; rw [xOf_val, wordXYN_toNat]; omega
@[simp] theorem yOf_wordXYN (f : Nibble) (x y : Reg) (n : Nibble) : yOf (wordXYN f x y n) = y := by
  apply Fin.ext; rw [yOf_val, wordXYN_toNat]; omega
@[simp] theorem nOf_wordXYN (f : Nibble) (x y : Reg) (n : Nibble) : nOf (wordXYN f x y n) = n := by
  apply BitVec.eq_of_toNat_eq; rw [nOf_toNat, wordXYN_toNat]; omega

theorem wordNNN_fields (w : Word) : wordNNN (famOf w) (nnnOf w) = w := by
  apply BitVec.eq_of_toNat_eq; rw [wordNNN_toNat, famOf_toNat, nnnOf_toNat]; omega
theorem wordXNN_fields (w : Word) : wordXNN (famOf w) (xOf w) (nnOf w) = w := by
  apply BitVec.eq_of_toNat_eq; rw [wordXNN_toNat, famOf_toNat, xOf_val, nnOf_toNat]; omega
theorem wordXYN_fields (w : Word) : wordXYN (famOf w) (xOf w) (yOf w) (nOf w) = w := by
  apply BitVec.eq_of_toNat_eq; rw [wordXYN_toNat, famOf_toNat, xOf_val, yOf_val, nOf_toNat]; omega

theorem wordOfBytes_toNat (hi lo : Byte) : (wordOfBytes hi lo).toNat = hi.toNat * 0x100 + lo.toNat := by
  exact toNat_append_add hi lo
theorem hiByte_toNat (w : Word) : (hiByte w).toNat = w.toNat / 0x100 := by
  simp [hiByte, Nat.shiftRight_eq_div_pow]; omega
theorem loByte_toNat (w : Word) : (loByte w).toNat = w.toNat % 0x100 := by
  simp [loByte]

@[simp] theorem wordOfBytes_halves (w : Word) : wordOfBytes (hiByte w) (loByte w) = w := by
  apply BitVec.eq_of_toNat_eq; rw [wordOfBytes_toNat, hiByte_toNat, loByte_toNat]; omega
@[simp] theorem hiByte_wordOfBytes (hi lo : Byte) : hiByte (wordOfBytes hi lo) = hi := by
  apply BitVec.eq_of_toNat_eq; rw [hiByte_toNat, wordOfBytes_toNat]; omega
@[simp] theorem loByte_wordOfBytes (hi lo : Byte) : loByte (wordOfBytes hi lo) = lo := by
  apply BitVec.eq_of_toNat_eq; rw [loByte_toNat, wordOfBytes_toNat]; omega

/-! A word under the three masks of R66 keeps the fields the mask covers. -/

theorem and_F000 (w : Word) : w &&& 0xF000#16 = wordNNN (famOf w) 0 := by
  apply BitVec.eq_of_getLsbD_eq
  intro i hi
  have h : (wordNNN (famOf w) 0).getLsbD i = (famOf w ++ (0 : Addr12)).getLsbD i := rfl
  rw [h, BitVec.getLsbD_append, BitVec.getLsbD_and]
  interval_cases i <;> simp [famOf]
theorem and_F00F (w : Word) : w &&& 0xF00F#16 = wordXYN (famOf w) 0 0 (nOf w) := by
  apply BitVec.eq_of_getLsbD_eq
  intro i hi
  have h : (wordXYN (famOf w) 0 0 (nOf w)).getLsbD i = (famOf w ++ regBits 0 ++ regBits 0 ++ nOf w).getLsbD i := rfl
  rw [h, BitVec.getLsbD_append, BitVec.getLsbD_append, BitVec.getLsbD_append, BitVec.getLsbD_and]
  interval_cases i <;> simp [famOf, nOf, regBits]
theorem and_F0FF (w : Word) : w &&& 0xF0FF#16 = wordXNN (famOf w) 0 (nnOf w) := by
  apply BitVec.eq_of_getLsbD_eq
  intro i hi
  have h : (wordXNN (famOf w) 0 (nnOf w)).getLsbD i = (famOf w ++ regBits 0 ++ nnOf w).getLsbD i := rfl
  rw [h, BitVec.getLsbD_append, BitVec.getLsbD_append, BitVec.getLsbD_and]
  interval_cases i <;> simp [famOf, nnOf, regBits]

/-- Decoding two bytes is decoding their word; the rest of the bytes is given back. -/
theorem decode_cons_cons (hi lo : Byte) (rest : List Byte) :
    decode (hi :: lo :: rest) =
      match decodeWord (wordOfBytes hi lo) with
      | .ok i => .ok (i, rest)
      | .error r => .error r := rfl

end Sys2Proof
end

