-- ==== Sys2Proof/Laws/Memory.lean ====
section
/-! SUPPORT. Memory: read after write, and the canonical form that every write keeps. -/

namespace Sys2Proof.Machine

theorem Memory.find_put_same (m : Memory) (a : Nat) (b : Byte) : (m.put a b).find a = some b := by
  induction m with
  | nil => simp [Memory.put, Memory.find]
  | cons c rest ih =>
    obtain ⟨k, v⟩ := c
    simp only [Memory.put]
    split
    · simp [Memory.find]
    · split
      · simp [Memory.find]
      · rename_i h1 h2
        simp [Memory.find, ih, Ne.symm h2]

theorem Memory.find_put_other (m : Memory) {a c : Nat} (b : Byte) (h : c ≠ a) : (m.put a b).find c = m.find c := by
  induction m with
  | nil => simp [Memory.put, Memory.find, Ne.symm h]
  | cons d rest ih =>
    obtain ⟨k, v⟩ := d
    simp only [Memory.put]
    split
    · simp [Memory.find, Ne.symm h]
    · split
      · rename_i h1 h2
        subst h2
        simp [Memory.find, Ne.symm h]
      · simp [Memory.find, ih]

theorem Memory.find_drop_same (m : Memory) (a : Nat) : (m.drop a).find a = none := by
  induction m with
  | nil => rfl
  | cons c rest ih =>
    obtain ⟨k, v⟩ := c
    simp only [Memory.drop]
    split
    · exact ih
    · rename_i h
      simp [Memory.find, h, ih]

theorem Memory.find_drop_other (m : Memory) {a c : Nat} (h : c ≠ a) : (m.drop a).find c = m.find c := by
  induction m with
  | nil => rfl
  | cons d rest ih =>
    obtain ⟨k, v⟩ := d
    simp only [Memory.drop]
    split
    · rename_i hk
      subst hk
      simp [Memory.find, Ne.symm h, ih]
    · simp [Memory.find, ih]

/-- A read after a write to the same address gives the byte written. -/
@[simp] theorem Memory.read_write_same (fb : Nat) (m : Memory) (a : Nat) (b : Byte) :
    (m.write fb a b).read fb a = b := by
  by_cases h : b = resetByte fb a
  · simp [Memory.write, Memory.read, Memory.find_drop_same, ← h]
  · simp [Memory.write, Memory.read, Memory.find_put_same, h]

/-- A write leaves every other address alone. -/
theorem Memory.read_write_other (fb : Nat) (m : Memory) {a c : Nat} (b : Byte) (h : c ≠ a) :
    (m.write fb a b).read fb c = m.read fb c := by
  by_cases hb : b = resetByte fb a
  · simp [Memory.write, Memory.read, Memory.find_drop_other m h, ← hb]
  · simp [Memory.write, Memory.read, Memory.find_put_other m b h, hb]

/-- Both cases of a read after a write. -/
theorem Memory.read_write (fb : Nat) (m : Memory) (a c : Nat) (b : Byte) :
    (m.write fb a b).read fb c = if c = a then b else m.read fb c := by
  split
  · rename_i h; subst h; simp
  · rename_i h; exact Memory.read_write_other fb m b h

theorem Memory.risesFrom_mono {lo hi : Nat} (m : Memory) (h : lo ≤ hi) (hm : m.risesFrom hi = true) :
    m.risesFrom lo = true := by
  cases m with
  | nil => rfl
  | cons c rest =>
    obtain ⟨k, v⟩ := c
    simp only [Memory.risesFrom, Bool.and_eq_true, decide_eq_true_eq] at hm ⊢
    exact ⟨by omega, hm.2⟩

theorem Memory.risesFrom_drop (m : Memory) (lo a : Nat) (hm : m.risesFrom lo = true) :
    (m.drop a).risesFrom lo = true := by
  induction m generalizing lo with
  | nil => rfl
  | cons c rest ih =>
    obtain ⟨k, v⟩ := c
    simp only [Memory.risesFrom, Bool.and_eq_true, decide_eq_true_eq] at hm
    simp only [Memory.drop]
    split
    · exact Memory.risesFrom_mono _ (by omega) (ih (k + 1) hm.2)
    · simp [Memory.risesFrom, hm.1, ih (k + 1) hm.2]

theorem Memory.risesFrom_put (m : Memory) (lo a : Nat) (b : Byte) (h : lo ≤ a) (hm : m.risesFrom lo = true) :
    (m.put a b).risesFrom lo = true := by
  induction m generalizing lo with
  | nil => simp [Memory.put, Memory.risesFrom, h]
  | cons c rest ih =>
    obtain ⟨k, v⟩ := c
    simp only [Memory.risesFrom, Bool.and_eq_true, decide_eq_true_eq] at hm
    simp only [Memory.put]
    split
    · rename_i hk
      simp only [Memory.risesFrom, Bool.and_eq_true, decide_eq_true_eq]
      exact ⟨h, by omega, hm.2⟩
    · split
      · rename_i hk
        subst hk
        simp [Memory.risesFrom, h, hm.2]
      · simp only [Memory.risesFrom, Bool.and_eq_true, decide_eq_true_eq]
        exact ⟨hm.1, ih (k + 1) (by omega) hm.2⟩

theorem Memory.all_drop (m : Memory) (a : Nat) (p : Host.Cell → Bool) (hm : m.all p = true) :
    (m.drop a).all p = true := by
  induction m with
  | nil => rfl
  | cons c rest ih =>
    obtain ⟨k, v⟩ := c
    simp only [List.all_cons, Bool.and_eq_true] at hm
    simp only [Memory.drop]
    split
    · exact ih hm.2
    · simp only [List.all_cons, Bool.and_eq_true]
      exact ⟨hm.1, ih hm.2⟩

theorem Memory.all_put (m : Memory) (a : Nat) (b : Byte) (p : Host.Cell → Bool) (hp : p (a, b) = true)
    (hm : m.all p = true) : (m.put a b).all p = true := by
  induction m with
  | nil => simp [Memory.put, hp]
  | cons c rest ih =>
    obtain ⟨k, v⟩ := c
    simp only [List.all_cons, Bool.and_eq_true] at hm
    simp only [Memory.put]
    split
    · simp only [List.all_cons, Bool.and_eq_true]
      exact ⟨hp, hm.1, hm.2⟩
    · split
      · simp only [List.all_cons, Bool.and_eq_true]
        exact ⟨hp, hm.2⟩
      · simp only [List.all_cons, Bool.and_eq_true]
        exact ⟨hm.1, ih hm.2⟩

/-- The empty memory, which reset has, is canonical. -/
@[simp] theorem Memory.wf_nil (fb : Nat) : Memory.wf fb [] = true := rfl

/-- A write below 4096 keeps the canonical form. -/
theorem Memory.wf_write (fb : Nat) (m : Memory) (a : Nat) (b : Byte) (ha : a < memSize) (hm : m.wf fb = true) :
    (m.write fb a b).wf fb = true := by
  simp only [Memory.wf, Bool.and_eq_true] at hm ⊢
  unfold Memory.write
  split
  · exact ⟨Memory.risesFrom_drop m 0 a hm.1, Memory.all_drop m a _ hm.2⟩
  · rename_i hb
    refine ⟨Memory.risesFrom_put m 0 a b (Nat.zero_le a) hm.1, Memory.all_put m a b _ ?_ hm.2⟩
    simp [ha, hb]

end Sys2Proof.Machine
end

