-- ==== Sys2Proof/Laws/Operands.lean ====
section
/-! SUPPORT. One lemma for what each operand form and each flag computation gives. -/

namespace Sys2Proof.Machine

@[simp] theorem zext16_toNat (nnn : Addr12) : (zext16 nnn).toNat = nnn.toNat := by
  have := nnn.isLt
  simp only [zext16, BitVec.toNat_setWidth]
  omega

@[simp] theorem trunc8_toNat (v : Nat) : (trunc8 v).toNat = v % 256 := rfl
@[simp] theorem trunc16_toNat (v : Nat) : (trunc16 v).toNat = v % 65536 := rfl

@[simp] theorem jumpV0Target_toNat (nnn : Addr12) (v : Byte) : (jumpV0Target nnn v).toNat = nnn.toNat + v.toNat := by
  have := nnn.isLt
  have := v.isLt
  simp only [jumpV0Target, trunc16_toNat]
  omega

@[simp] theorem glyphAddr_toNat (v : Byte) : (glyphAddr v).toNat = 5 * v.toNat := by
  have := v.isLt
  simp only [glyphAddr, trunc16_toNat]
  omega

@[simp] theorem keyIdx_val (v : Byte) : (keyIdx v).val = min v.toNat 15 := rfl
@[simp] theorem pixIdx_val (px py : Nat) : (pixIdx px py).val = min (px + 64 * py) 2047 := rfl

@[simp] theorem flagByte_true : flagByte true = 1 := rfl
@[simp] theorem flagByte_false : flagByte false = 0 := rfl
theorem flagByte_eq_ite (f : Bool) : flagByte f = if f = true then 1 else 0 := by cases f <;> rfl

theorem addCarry_value (a b : Byte) : (addCarry a b).value = a + b := by
  apply BitVec.eq_of_toNat_eq
  rw [BitVec.toNat_add]
  rfl
theorem addCarry_flag (a b : Byte) : (addCarry a b).flag = true ↔ 256 ≤ a.toNat + b.toNat := by
  simp only [addCarry, decide_eq_true_eq]
  omega

theorem testBit_eight {d : Nat} (h : d < 512) : d.testBit 8 = decide (256 ≤ d) := by
  rw [Nat.testBit_eq_decide_div_mod_eq]
  apply decide_eq_decide.mpr
  omega

theorem subNotBorrow_value (a b : Byte) : (subNotBorrow a b).value = a - b := by
  have ha := a.isLt
  have hb := b.isLt
  apply BitVec.eq_of_toNat_eq
  simp only [subNotBorrow, trunc8_toNat, BitVec.toNat_sub]
  congr 1
  omega
theorem subNotBorrow_flag (a b : Byte) : (subNotBorrow a b).flag = true ↔ b.toNat ≤ a.toNat := by
  have ha := a.isLt
  have hb := b.isLt
  simp only [subNotBorrow]
  rw [testBit_eight (by omega), decide_eq_true_eq]
  omega

theorem shiftRight1_value (a : Byte) : (shiftRight1 a).value = a >>> 1 := by
  have := a.isLt
  apply BitVec.eq_of_toNat_eq
  simp only [shiftRight1, trunc8_toNat, BitVec.toNat_ushiftRight, Nat.shiftRight_eq_div_pow]
  omega
theorem shiftRight1_flag (a : Byte) : (shiftRight1 a).flag = true ↔ a.toNat % 2 = 1 := by
  simp only [shiftRight1, BitVec.getLsbD, Nat.testBit_zero, decide_eq_true_eq]

theorem shiftLeft1_value (a : Byte) : (shiftLeft1 a).value = a <<< 1 := by
  apply BitVec.eq_of_toNat_eq
  simp only [shiftLeft1, trunc8_toNat, BitVec.toNat_shiftLeft, Nat.shiftLeft_eq]
theorem shiftLeft1_flag (a : Byte) : (shiftLeft1 a).flag = true ↔ 128 ≤ a.toNat := by
  have := a.isLt
  simp only [shiftLeft1, BitVec.getLsbD, Nat.testBit_eq_decide_div_mod_eq, decide_eq_true_eq]
  omega

theorem passes12Bits_iff (v : Nat) : passes12Bits v = true ↔ 0x0FFF < v := by
  simp only [passes12Bits, decide_eq_true_eq]

end Sys2Proof.Machine
end

