-- ==== Sys2Proof/Laws/State.lean ====
section
/-! SUPPORT. One lemma per field and per reading, for each update of the state. -/

namespace Sys2Proof.Machine

variable (s : State)

/-! `setV`. -/

@[simp] theorem State.setV_V (q : Reg) (v : Byte) : (s.setV q v).V = s.V.set q.val v q.isLt := rfl
@[simp] theorem State.setV_I (q : Reg) (v : Byte) : (s.setV q v).I = s.I := rfl
@[simp] theorem State.setV_pc (q : Reg) (v : Byte) : (s.setV q v).pc = s.pc := rfl
@[simp] theorem State.setV_Stack (q : Reg) (v : Byte) : (s.setV q v).Stack = s.Stack := rfl
@[simp] theorem State.setV_SP (q : Reg) (v : Byte) : (s.setV q v).SP = s.SP := rfl
@[simp] theorem State.setV_DT (q : Reg) (v : Byte) : (s.setV q v).DT = s.DT := rfl
@[simp] theorem State.setV_ST (q : Reg) (v : Byte) : (s.setV q v).ST = s.ST := rfl
@[simp] theorem State.setV_M (q : Reg) (v : Byte) : (s.setV q v).M = s.M := rfl
@[simp] theorem State.setV_FB (q : Reg) (v : Byte) : (s.setV q v).FB = s.FB := rfl
@[simp] theorem State.setV_Key (q : Reg) (v : Byte) : (s.setV q v).Key = s.Key := rfl
@[simp] theorem State.setV_RP (q : Reg) (v : Byte) : (s.setV q v).RP = s.RP := rfl
@[simp] theorem State.setV_cfg (q : Reg) (v : Byte) : (s.setV q v).cfg = s.cfg := rfl
@[simp] theorem State.setV_rndIn (q : Reg) (v : Byte) : (s.setV q v).rndIn = s.rndIn := rfl
@[simp] theorem State.setV_draws (q : Reg) (v : Byte) : (s.setV q v).draws = s.draws := rfl
@[simp] theorem State.setV_report (q : Reg) (v : Byte) : (s.setV q v).report = s.report := rfl
@[simp] theorem State.setV_beep (q : Reg) (v : Byte) : (s.setV q v).beep = s.beep := rfl
@[simp] theorem State.setV_stackAt (q : Reg) (v : Byte) (j : Nat) : (s.setV q v).stackAt j = s.stackAt j := rfl
@[simp] theorem State.setV_byteAt (q : Reg) (v : Byte) (a : Nat) : (s.setV q v).byteAt a = s.byteAt a := rfl
@[simp] theorem State.setV_cell (q : Reg) (v : Byte) (k : Cell) : (s.setV q v).cell k = s.cell k := rfl
@[simp] theorem State.setV_held (q : Reg) (v : Byte) (k : Reg) : (s.setV q v).held k = s.held k := rfl

/-! `setI`. -/

@[simp] theorem State.setI_V (v : Word) : (s.setI v).V = s.V := rfl
@[simp] theorem State.setI_I (v : Word) : (s.setI v).I = v := rfl
@[simp] theorem State.setI_pc (v : Word) : (s.setI v).pc = s.pc := rfl
@[simp] theorem State.setI_Stack (v : Word) : (s.setI v).Stack = s.Stack := rfl
@[simp] theorem State.setI_SP (v : Word) : (s.setI v).SP = s.SP := rfl
@[simp] theorem State.setI_DT (v : Word) : (s.setI v).DT = s.DT := rfl
@[simp] theorem State.setI_ST (v : Word) : (s.setI v).ST = s.ST := rfl
@[simp] theorem State.setI_M (v : Word) : (s.setI v).M = s.M := rfl
@[simp] theorem State.setI_FB (v : Word) : (s.setI v).FB = s.FB := rfl
@[simp] theorem State.setI_Key (v : Word) : (s.setI v).Key = s.Key := rfl
@[simp] theorem State.setI_RP (v : Word) : (s.setI v).RP = s.RP := rfl
@[simp] theorem State.setI_cfg (v : Word) : (s.setI v).cfg = s.cfg := rfl
@[simp] theorem State.setI_rndIn (v : Word) : (s.setI v).rndIn = s.rndIn := rfl
@[simp] theorem State.setI_draws (v : Word) : (s.setI v).draws = s.draws := rfl
@[simp] theorem State.setI_report (v : Word) : (s.setI v).report = s.report := rfl
@[simp] theorem State.setI_beep (v : Word) : (s.setI v).beep = s.beep := rfl
@[simp] theorem State.setI_getV (v : Word) (r : Reg) : (s.setI v).getV r = s.getV r := rfl
@[simp] theorem State.setI_stackAt (v : Word) (j : Nat) : (s.setI v).stackAt j = s.stackAt j := rfl
@[simp] theorem State.setI_byteAt (v : Word) (a : Nat) : (s.setI v).byteAt a = s.byteAt a := rfl
@[simp] theorem State.setI_cell (v : Word) (k : Cell) : (s.setI v).cell k = s.cell k := rfl
@[simp] theorem State.setI_held (v : Word) (k : Reg) : (s.setI v).held k = s.held k := rfl

/-! `setPc`. -/

@[simp] theorem State.setPc_V (v : Word) : (s.setPc v).V = s.V := rfl
@[simp] theorem State.setPc_I (v : Word) : (s.setPc v).I = s.I := rfl
@[simp] theorem State.setPc_pc (v : Word) : (s.setPc v).pc = v := rfl
@[simp] theorem State.setPc_Stack (v : Word) : (s.setPc v).Stack = s.Stack := rfl
@[simp] theorem State.setPc_SP (v : Word) : (s.setPc v).SP = s.SP := rfl
@[simp] theorem State.setPc_DT (v : Word) : (s.setPc v).DT = s.DT := rfl
@[simp] theorem State.setPc_ST (v : Word) : (s.setPc v).ST = s.ST := rfl
@[simp] theorem State.setPc_M (v : Word) : (s.setPc v).M = s.M := rfl
@[simp] theorem State.setPc_FB (v : Word) : (s.setPc v).FB = s.FB := rfl
@[simp] theorem State.setPc_Key (v : Word) : (s.setPc v).Key = s.Key := rfl
@[simp] theorem State.setPc_RP (v : Word) : (s.setPc v).RP = s.RP := rfl
@[simp] theorem State.setPc_cfg (v : Word) : (s.setPc v).cfg = s.cfg := rfl
@[simp] theorem State.setPc_rndIn (v : Word) : (s.setPc v).rndIn = s.rndIn := rfl
@[simp] theorem State.setPc_draws (v : Word) : (s.setPc v).draws = s.draws := rfl
@[simp] theorem State.setPc_report (v : Word) : (s.setPc v).report = s.report := rfl
@[simp] theorem State.setPc_beep (v : Word) : (s.setPc v).beep = s.beep := rfl
@[simp] theorem State.setPc_getV (v : Word) (r : Reg) : (s.setPc v).getV r = s.getV r := rfl
@[simp] theorem State.setPc_stackAt (v : Word) (j : Nat) : (s.setPc v).stackAt j = s.stackAt j := rfl
@[simp] theorem State.setPc_byteAt (v : Word) (a : Nat) : (s.setPc v).byteAt a = s.byteAt a := rfl
@[simp] theorem State.setPc_cell (v : Word) (k : Cell) : (s.setPc v).cell k = s.cell k := rfl
@[simp] theorem State.setPc_held (v : Word) (k : Reg) : (s.setPc v).held k = s.held k := rfl

/-! `setDT`. -/

@[simp] theorem State.setDT_V (v : Byte) : (s.setDT v).V = s.V := rfl
@[simp] theorem State.setDT_I (v : Byte) : (s.setDT v).I = s.I := rfl
@[simp] theorem State.setDT_pc (v : Byte) : (s.setDT v).pc = s.pc := rfl
@[simp] theorem State.setDT_Stack (v : Byte) : (s.setDT v).Stack = s.Stack := rfl
@[simp] theorem State.setDT_SP (v : Byte) : (s.setDT v).SP = s.SP := rfl
@[simp] theorem State.setDT_DT (v : Byte) : (s.setDT v).DT = v := rfl
@[simp] theorem State.setDT_ST (v : Byte) : (s.setDT v).ST = s.ST := rfl
@[simp] theorem State.setDT_M (v : Byte) : (s.setDT v).M = s.M := rfl
@[simp] theorem State.setDT_FB (v : Byte) : (s.setDT v).FB = s.FB := rfl
@[simp] theorem State.setDT_Key (v : Byte) : (s.setDT v).Key = s.Key := rfl
@[simp] theorem State.setDT_RP (v : Byte) : (s.setDT v).RP = s.RP := rfl
@[simp] theorem State.setDT_cfg (v : Byte) : (s.setDT v).cfg = s.cfg := rfl
@[simp] theorem State.setDT_rndIn (v : Byte) : (s.setDT v).rndIn = s.rndIn := rfl
@[simp] theorem State.setDT_draws (v : Byte) : (s.setDT v).draws = s.draws := rfl
@[simp] theorem State.setDT_report (v : Byte) : (s.setDT v).report = s.report := rfl
@[simp] theorem State.setDT_beep (v : Byte) : (s.setDT v).beep = s.beep := rfl
@[simp] theorem State.setDT_getV (v : Byte) (r : Reg) : (s.setDT v).getV r = s.getV r := rfl
@[simp] theorem State.setDT_stackAt (v : Byte) (j : Nat) : (s.setDT v).stackAt j = s.stackAt j := rfl
@[simp] theorem State.setDT_byteAt (v : Byte) (a : Nat) : (s.setDT v).byteAt a = s.byteAt a := rfl
@[simp] theorem State.setDT_cell (v : Byte) (k : Cell) : (s.setDT v).cell k = s.cell k := rfl
@[simp] theorem State.setDT_held (v : Byte) (k : Reg) : (s.setDT v).held k = s.held k := rfl

/-! `setST`. -/

@[simp] theorem State.setST_V (v : Byte) : (s.setST v).V = s.V := rfl
@[simp] theorem State.setST_I (v : Byte) : (s.setST v).I = s.I := rfl
@[simp] theorem State.setST_pc (v : Byte) : (s.setST v).pc = s.pc := rfl
@[simp] theorem State.setST_Stack (v : Byte) : (s.setST v).Stack = s.Stack := rfl
@[simp] theorem State.setST_SP (v : Byte) : (s.setST v).SP = s.SP := rfl
@[simp] theorem State.setST_DT (v : Byte) : (s.setST v).DT = s.DT := rfl
@[simp] theorem State.setST_ST (v : Byte) : (s.setST v).ST = v := rfl
@[simp] theorem State.setST_M (v : Byte) : (s.setST v).M = s.M := rfl
@[simp] theorem State.setST_FB (v : Byte) : (s.setST v).FB = s.FB := rfl
@[simp] theorem State.setST_Key (v : Byte) : (s.setST v).Key = s.Key := rfl
@[simp] theorem State.setST_RP (v : Byte) : (s.setST v).RP = s.RP := rfl
@[simp] theorem State.setST_cfg (v : Byte) : (s.setST v).cfg = s.cfg := rfl
@[simp] theorem State.setST_rndIn (v : Byte) : (s.setST v).rndIn = s.rndIn := rfl
@[simp] theorem State.setST_draws (v : Byte) : (s.setST v).draws = s.draws := rfl
@[simp] theorem State.setST_report (v : Byte) : (s.setST v).report = s.report := rfl
@[simp] theorem State.setST_beep (v : Byte) : (s.setST v).beep = s.beep := rfl
@[simp] theorem State.setST_getV (v : Byte) (r : Reg) : (s.setST v).getV r = s.getV r := rfl
@[simp] theorem State.setST_stackAt (v : Byte) (j : Nat) : (s.setST v).stackAt j = s.stackAt j := rfl
@[simp] theorem State.setST_byteAt (v : Byte) (a : Nat) : (s.setST v).byteAt a = s.byteAt a := rfl
@[simp] theorem State.setST_cell (v : Byte) (k : Cell) : (s.setST v).cell k = s.cell k := rfl
@[simp] theorem State.setST_held (v : Byte) (k : Reg) : (s.setST v).held k = s.held k := rfl

/-! `advance`. -/

@[simp] theorem State.advance_V : (s.advance).V = s.V := rfl
@[simp] theorem State.advance_I : (s.advance).I = s.I := rfl
@[simp] theorem State.advance_pc : (s.advance).pc = s.pc + 2 := rfl
@[simp] theorem State.advance_Stack : (s.advance).Stack = s.Stack := rfl
@[simp] theorem State.advance_SP : (s.advance).SP = s.SP := rfl
@[simp] theorem State.advance_DT : (s.advance).DT = s.DT := rfl
@[simp] theorem State.advance_ST : (s.advance).ST = s.ST := rfl
@[simp] theorem State.advance_M : (s.advance).M = s.M := rfl
@[simp] theorem State.advance_FB : (s.advance).FB = s.FB := rfl
@[simp] theorem State.advance_Key : (s.advance).Key = s.Key := rfl
@[simp] theorem State.advance_RP : (s.advance).RP = s.RP := rfl
@[simp] theorem State.advance_cfg : (s.advance).cfg = s.cfg := rfl
@[simp] theorem State.advance_rndIn : (s.advance).rndIn = s.rndIn := rfl
@[simp] theorem State.advance_draws : (s.advance).draws = s.draws := rfl
@[simp] theorem State.advance_report : (s.advance).report = s.report := rfl
@[simp] theorem State.advance_beep : (s.advance).beep = s.beep := rfl
@[simp] theorem State.advance_getV (r : Reg) : (s.advance).getV r = s.getV r := rfl
@[simp] theorem State.advance_stackAt (j : Nat) : (s.advance).stackAt j = s.stackAt j := rfl
@[simp] theorem State.advance_byteAt (a : Nat) : (s.advance).byteAt a = s.byteAt a := rfl
@[simp] theorem State.advance_cell (k : Cell) : (s.advance).cell k = s.cell k := rfl
@[simp] theorem State.advance_held (k : Reg) : (s.advance).held k = s.held k := rfl

/-! `setByte`. -/

@[simp] theorem State.setByte_V (b : Nat) (v : Byte) : (s.setByte b v).V = s.V := rfl
@[simp] theorem State.setByte_I (b : Nat) (v : Byte) : (s.setByte b v).I = s.I := rfl
@[simp] theorem State.setByte_pc (b : Nat) (v : Byte) : (s.setByte b v).pc = s.pc := rfl
@[simp] theorem State.setByte_Stack (b : Nat) (v : Byte) : (s.setByte b v).Stack = s.Stack := rfl
@[simp] theorem State.setByte_SP (b : Nat) (v : Byte) : (s.setByte b v).SP = s.SP := rfl
@[simp] theorem State.setByte_DT (b : Nat) (v : Byte) : (s.setByte b v).DT = s.DT := rfl
@[simp] theorem State.setByte_ST (b : Nat) (v : Byte) : (s.setByte b v).ST = s.ST := rfl
@[simp] theorem State.setByte_M (b : Nat) (v : Byte) : (s.setByte b v).M = s.M.write s.cfg.fontBase b v := rfl
@[simp] theorem State.setByte_FB (b : Nat) (v : Byte) : (s.setByte b v).FB = s.FB := rfl
@[simp] theorem State.setByte_Key (b : Nat) (v : Byte) : (s.setByte b v).Key = s.Key := rfl
@[simp] theorem State.setByte_RP (b : Nat) (v : Byte) : (s.setByte b v).RP = s.RP := rfl
@[simp] theorem State.setByte_cfg (b : Nat) (v : Byte) : (s.setByte b v).cfg = s.cfg := rfl
@[simp] theorem State.setByte_rndIn (b : Nat) (v : Byte) : (s.setByte b v).rndIn = s.rndIn := rfl
@[simp] theorem State.setByte_draws (b : Nat) (v : Byte) : (s.setByte b v).draws = s.draws := rfl
@[simp] theorem State.setByte_report (b : Nat) (v : Byte) : (s.setByte b v).report = s.report := rfl
@[simp] theorem State.setByte_beep (b : Nat) (v : Byte) : (s.setByte b v).beep = s.beep := rfl
@[simp] theorem State.setByte_getV (b : Nat) (v : Byte) (r : Reg) : (s.setByte b v).getV r = s.getV r := rfl
@[simp] theorem State.setByte_stackAt (b : Nat) (v : Byte) (j : Nat) : (s.setByte b v).stackAt j = s.stackAt j := rfl
@[simp] theorem State.setByte_cell (b : Nat) (v : Byte) (k : Cell) : (s.setByte b v).cell k = s.cell k := rfl
@[simp] theorem State.setByte_held (b : Nat) (v : Byte) (k : Reg) : (s.setByte b v).held k = s.held k := rfl

/-! `memWrite`. -/

@[simp] theorem State.memWrite_V (b : Nat) (v : Byte) : (s.memWrite b v).V = s.V := rfl
@[simp] theorem State.memWrite_I (b : Nat) (v : Byte) : (s.memWrite b v).I = s.I := rfl
@[simp] theorem State.memWrite_pc (b : Nat) (v : Byte) : (s.memWrite b v).pc = s.pc := rfl
@[simp] theorem State.memWrite_Stack (b : Nat) (v : Byte) : (s.memWrite b v).Stack = s.Stack := rfl
@[simp] theorem State.memWrite_SP (b : Nat) (v : Byte) : (s.memWrite b v).SP = s.SP := rfl
@[simp] theorem State.memWrite_DT (b : Nat) (v : Byte) : (s.memWrite b v).DT = s.DT := rfl
@[simp] theorem State.memWrite_ST (b : Nat) (v : Byte) : (s.memWrite b v).ST = s.ST := rfl
@[simp] theorem State.memWrite_M (b : Nat) (v : Byte) : (s.memWrite b v).M = s.M.write s.cfg.fontBase (clampA b) v := rfl
@[simp] theorem State.memWrite_FB (b : Nat) (v : Byte) : (s.memWrite b v).FB = s.FB := rfl
@[simp] theorem State.memWrite_Key (b : Nat) (v : Byte) : (s.memWrite b v).Key = s.Key := rfl
@[simp] theorem State.memWrite_RP (b : Nat) (v : Byte) : (s.memWrite b v).RP = s.RP := rfl
@[simp] theorem State.memWrite_cfg (b : Nat) (v : Byte) : (s.memWrite b v).cfg = s.cfg := rfl
@[simp] theorem State.memWrite_rndIn (b : Nat) (v : Byte) : (s.memWrite b v).rndIn = s.rndIn := rfl
@[simp] theorem State.memWrite_draws (b : Nat) (v : Byte) : (s.memWrite b v).draws = s.draws := rfl
@[simp] theorem State.memWrite_report (b : Nat) (v : Byte) : (s.memWrite b v).report = s.report := rfl
@[simp] theorem State.memWrite_beep (b : Nat) (v : Byte) : (s.memWrite b v).beep = s.beep := rfl
@[simp] theorem State.memWrite_getV (b : Nat) (v : Byte) (r : Reg) : (s.memWrite b v).getV r = s.getV r := rfl
@[simp] theorem State.memWrite_stackAt (b : Nat) (v : Byte) (j : Nat) : (s.memWrite b v).stackAt j = s.stackAt j := rfl
@[simp] theorem State.memWrite_cell (b : Nat) (v : Byte) (k : Cell) : (s.memWrite b v).cell k = s.cell k := rfl
@[simp] theorem State.memWrite_held (b : Nat) (v : Byte) (k : Reg) : (s.memWrite b v).held k = s.held k := rfl

/-! `setVThenFlag`. -/

@[simp] theorem State.setVThenFlag_I (q : Reg) (x : AluResult) : (s.setVThenFlag q x).I = s.I := rfl
@[simp] theorem State.setVThenFlag_pc (q : Reg) (x : AluResult) : (s.setVThenFlag q x).pc = s.pc := rfl
@[simp] theorem State.setVThenFlag_Stack (q : Reg) (x : AluResult) : (s.setVThenFlag q x).Stack = s.Stack := rfl
@[simp] theorem State.setVThenFlag_SP (q : Reg) (x : AluResult) : (s.setVThenFlag q x).SP = s.SP := rfl
@[simp] theorem State.setVThenFlag_DT (q : Reg) (x : AluResult) : (s.setVThenFlag q x).DT = s.DT := rfl
@[simp] theorem State.setVThenFlag_ST (q : Reg) (x : AluResult) : (s.setVThenFlag q x).ST = s.ST := rfl
@[simp] theorem State.setVThenFlag_M (q : Reg) (x : AluResult) : (s.setVThenFlag q x).M = s.M := rfl
@[simp] theorem State.setVThenFlag_FB (q : Reg) (x : AluResult) : (s.setVThenFlag q x).FB = s.FB := rfl
@[simp] theorem State.setVThenFlag_Key (q : Reg) (x : AluResult) : (s.setVThenFlag q x).Key = s.Key := rfl
@[simp] theorem State.setVThenFlag_RP (q : Reg) (x : AluResult) : (s.setVThenFlag q x).RP = s.RP := rfl
@[simp] theorem State.setVThenFlag_cfg (q : Reg) (x : AluResult) : (s.setVThenFlag q x).cfg = s.cfg := rfl
@[simp] theorem State.setVThenFlag_rndIn (q : Reg) (x : AluResult) : (s.setVThenFlag q x).rndIn = s.rndIn := rfl
@[simp] theorem State.setVThenFlag_draws (q : Reg) (x : AluResult) : (s.setVThenFlag q x).draws = s.draws := rfl
@[simp] theorem State.setVThenFlag_report (q : Reg) (x : AluResult) : (s.setVThenFlag q x).report = s.report := rfl
@[simp] theorem State.setVThenFlag_beep (q : Reg) (x : AluResult) : (s.setVThenFlag q x).beep = s.beep := rfl
@[simp] theorem State.setVThenFlag_stackAt (q : Reg) (x : AluResult) (j : Nat) : (s.setVThenFlag q x).stackAt j = s.stackAt j := rfl
@[simp] theorem State.setVThenFlag_byteAt (q : Reg) (x : AluResult) (a : Nat) : (s.setVThenFlag q x).byteAt a = s.byteAt a := rfl
@[simp] theorem State.setVThenFlag_cell (q : Reg) (x : AluResult) (k : Cell) : (s.setVThenFlag q x).cell k = s.cell k := rfl
@[simp] theorem State.setVThenFlag_held (q : Reg) (x : AluResult) (k : Reg) : (s.setVThenFlag q x).held k = s.held k := rfl

/-! `push`. -/

@[simp] theorem State.push_V (v : Word) : (s.push v).V = s.V := rfl
@[simp] theorem State.push_I (v : Word) : (s.push v).I = s.I := rfl
@[simp] theorem State.push_pc (v : Word) : (s.push v).pc = s.pc := rfl
@[simp] theorem State.push_Stack (v : Word) : (s.push v).Stack = s.Stack.set (s.SP.val % 16) v (by omega) := rfl
@[simp] theorem State.push_SP (v : Word) : (s.push v).SP = spAfterPush s.cfg.stackPolicy s.SP := rfl
@[simp] theorem State.push_DT (v : Word) : (s.push v).DT = s.DT := rfl
@[simp] theorem State.push_ST (v : Word) : (s.push v).ST = s.ST := rfl
@[simp] theorem State.push_M (v : Word) : (s.push v).M = s.M := rfl
@[simp] theorem State.push_FB (v : Word) : (s.push v).FB = s.FB := rfl
@[simp] theorem State.push_Key (v : Word) : (s.push v).Key = s.Key := rfl
@[simp] theorem State.push_RP (v : Word) : (s.push v).RP = s.RP := rfl
@[simp] theorem State.push_cfg (v : Word) : (s.push v).cfg = s.cfg := rfl
@[simp] theorem State.push_rndIn (v : Word) : (s.push v).rndIn = s.rndIn := rfl
@[simp] theorem State.push_draws (v : Word) : (s.push v).draws = s.draws := rfl
@[simp] theorem State.push_report (v : Word) : (s.push v).report = s.report := rfl
@[simp] theorem State.push_beep (v : Word) : (s.push v).beep = s.beep := rfl
@[simp] theorem State.push_getV (v : Word) (r : Reg) : (s.push v).getV r = s.getV r := rfl
@[simp] theorem State.push_byteAt (v : Word) (a : Nat) : (s.push v).byteAt a = s.byteAt a := rfl
@[simp] theorem State.push_cell (v : Word) (k : Cell) : (s.push v).cell k = s.cell k := rfl
@[simp] theorem State.push_held (v : Word) (k : Reg) : (s.push v).held k = s.held k := rfl

/-! `pop`. -/

@[simp] theorem State.pop_V : (s.pop).V = s.V := rfl
@[simp] theorem State.pop_I : (s.pop).I = s.I := rfl
@[simp] theorem State.pop_pc : (s.pop).pc = s.pc := rfl
@[simp] theorem State.pop_Stack : (s.pop).Stack = s.Stack := rfl
@[simp] theorem State.pop_SP : (s.pop).SP = spAfterPop s.cfg.stackPolicy s.SP := rfl
@[simp] theorem State.pop_DT : (s.pop).DT = s.DT := rfl
@[simp] theorem State.pop_ST : (s.pop).ST = s.ST := rfl
@[simp] theorem State.pop_M : (s.pop).M = s.M := rfl
@[simp] theorem State.pop_FB : (s.pop).FB = s.FB := rfl
@[simp] theorem State.pop_Key : (s.pop).Key = s.Key := rfl
@[simp] theorem State.pop_RP : (s.pop).RP = s.RP := rfl
@[simp] theorem State.pop_cfg : (s.pop).cfg = s.cfg := rfl
@[simp] theorem State.pop_rndIn : (s.pop).rndIn = s.rndIn := rfl
@[simp] theorem State.pop_draws : (s.pop).draws = s.draws := rfl
@[simp] theorem State.pop_report : (s.pop).report = s.report := rfl
@[simp] theorem State.pop_beep : (s.pop).beep = s.beep := rfl
@[simp] theorem State.pop_getV (r : Reg) : (s.pop).getV r = s.getV r := rfl
@[simp] theorem State.pop_stackAt (j : Nat) : (s.pop).stackAt j = s.stackAt j := rfl
@[simp] theorem State.pop_byteAt (a : Nat) : (s.pop).byteAt a = s.byteAt a := rfl
@[simp] theorem State.pop_cell (k : Cell) : (s.pop).cell k = s.cell k := rfl
@[simp] theorem State.pop_held (k : Reg) : (s.pop).held k = s.held k := rfl

/-! `drawFrame`. -/

@[simp] theorem State.drawFrame_V (f : Framebuffer) : (s.drawFrame f).V = s.V := rfl
@[simp] theorem State.drawFrame_I (f : Framebuffer) : (s.drawFrame f).I = s.I := rfl
@[simp] theorem State.drawFrame_pc (f : Framebuffer) : (s.drawFrame f).pc = s.pc := rfl
@[simp] theorem State.drawFrame_Stack (f : Framebuffer) : (s.drawFrame f).Stack = s.Stack := rfl
@[simp] theorem State.drawFrame_SP (f : Framebuffer) : (s.drawFrame f).SP = s.SP := rfl
@[simp] theorem State.drawFrame_DT (f : Framebuffer) : (s.drawFrame f).DT = s.DT := rfl
@[simp] theorem State.drawFrame_ST (f : Framebuffer) : (s.drawFrame f).ST = s.ST := rfl
@[simp] theorem State.drawFrame_M (f : Framebuffer) : (s.drawFrame f).M = s.M := rfl
@[simp] theorem State.drawFrame_FB (f : Framebuffer) : (s.drawFrame f).FB = f := rfl
@[simp] theorem State.drawFrame_Key (f : Framebuffer) : (s.drawFrame f).Key = s.Key := rfl
@[simp] theorem State.drawFrame_RP (f : Framebuffer) : (s.drawFrame f).RP = true := rfl
@[simp] theorem State.drawFrame_cfg (f : Framebuffer) : (s.drawFrame f).cfg = s.cfg := rfl
@[simp] theorem State.drawFrame_rndIn (f : Framebuffer) : (s.drawFrame f).rndIn = s.rndIn := rfl
@[simp] theorem State.drawFrame_draws (f : Framebuffer) : (s.drawFrame f).draws = s.draws := rfl
@[simp] theorem State.drawFrame_report (f : Framebuffer) : (s.drawFrame f).report = s.report := rfl
@[simp] theorem State.drawFrame_beep (f : Framebuffer) : (s.drawFrame f).beep = s.beep := rfl
@[simp] theorem State.drawFrame_getV (f : Framebuffer) (r : Reg) : (s.drawFrame f).getV r = s.getV r := rfl
@[simp] theorem State.drawFrame_stackAt (f : Framebuffer) (j : Nat) : (s.drawFrame f).stackAt j = s.stackAt j := rfl
@[simp] theorem State.drawFrame_byteAt (f : Framebuffer) (a : Nat) : (s.drawFrame f).byteAt a = s.byteAt a := rfl
@[simp] theorem State.drawFrame_cell (f : Framebuffer) (k : Cell) : (s.drawFrame f).cell k = f.cell k := rfl
@[simp] theorem State.drawFrame_held (f : Framebuffer) (k : Reg) : (s.drawFrame f).held k = s.held k := rfl

/-! `raise`. -/

@[simp] theorem State.raise_V (x : ReportKind) (w : Word) : (s.raise x w).V = s.V := rfl
@[simp] theorem State.raise_I (x : ReportKind) (w : Word) : (s.raise x w).I = s.I := rfl
@[simp] theorem State.raise_pc (x : ReportKind) (w : Word) : (s.raise x w).pc = s.pc := rfl
@[simp] theorem State.raise_Stack (x : ReportKind) (w : Word) : (s.raise x w).Stack = s.Stack := rfl
@[simp] theorem State.raise_SP (x : ReportKind) (w : Word) : (s.raise x w).SP = s.SP := rfl
@[simp] theorem State.raise_DT (x : ReportKind) (w : Word) : (s.raise x w).DT = s.DT := rfl
@[simp] theorem State.raise_ST (x : ReportKind) (w : Word) : (s.raise x w).ST = s.ST := rfl
@[simp] theorem State.raise_M (x : ReportKind) (w : Word) : (s.raise x w).M = s.M := rfl
@[simp] theorem State.raise_FB (x : ReportKind) (w : Word) : (s.raise x w).FB = s.FB := rfl
@[simp] theorem State.raise_Key (x : ReportKind) (w : Word) : (s.raise x w).Key = s.Key := rfl
@[simp] theorem State.raise_RP (x : ReportKind) (w : Word) : (s.raise x w).RP = s.RP := rfl
@[simp] theorem State.raise_cfg (x : ReportKind) (w : Word) : (s.raise x w).cfg = s.cfg := rfl
@[simp] theorem State.raise_rndIn (x : ReportKind) (w : Word) : (s.raise x w).rndIn = s.rndIn := rfl
@[simp] theorem State.raise_draws (x : ReportKind) (w : Word) : (s.raise x w).draws = s.draws := rfl
@[simp] theorem State.raise_report (x : ReportKind) (w : Word) : (s.raise x w).report = some ⟨x, s.pc, w⟩ := rfl
@[simp] theorem State.raise_beep (x : ReportKind) (w : Word) : (s.raise x w).beep = s.beep := rfl
@[simp] theorem State.raise_getV (x : ReportKind) (w : Word) (r : Reg) : (s.raise x w).getV r = s.getV r := rfl
@[simp] theorem State.raise_stackAt (x : ReportKind) (w : Word) (j : Nat) : (s.raise x w).stackAt j = s.stackAt j := rfl
@[simp] theorem State.raise_byteAt (x : ReportKind) (w : Word) (a : Nat) : (s.raise x w).byteAt a = s.byteAt a := rfl
@[simp] theorem State.raise_cell (x : ReportKind) (w : Word) (k : Cell) : (s.raise x w).cell k = s.cell k := rfl
@[simp] theorem State.raise_held (x : ReportKind) (w : Word) (k : Reg) : (s.raise x w).held k = s.held k := rfl

/-! `reportAndAdvance`. -/

@[simp] theorem State.reportAndAdvance_V (x : ReportKind) (w : Word) : (s.reportAndAdvance x w).V = s.V := rfl
@[simp] theorem State.reportAndAdvance_I (x : ReportKind) (w : Word) : (s.reportAndAdvance x w).I = s.I := rfl
@[simp] theorem State.reportAndAdvance_pc (x : ReportKind) (w : Word) : (s.reportAndAdvance x w).pc = s.pc + 2 := rfl
@[simp] theorem State.reportAndAdvance_Stack (x : ReportKind) (w : Word) : (s.reportAndAdvance x w).Stack = s.Stack := rfl
@[simp] theorem State.reportAndAdvance_SP (x : ReportKind) (w : Word) : (s.reportAndAdvance x w).SP = s.SP := rfl
@[simp] theorem State.reportAndAdvance_DT (x : ReportKind) (w : Word) : (s.reportAndAdvance x w).DT = s.DT := rfl
@[simp] theorem State.reportAndAdvance_ST (x : ReportKind) (w : Word) : (s.reportAndAdvance x w).ST = s.ST := rfl
@[simp] theorem State.reportAndAdvance_M (x : ReportKind) (w : Word) : (s.reportAndAdvance x w).M = s.M := rfl
@[simp] theorem State.reportAndAdvance_FB (x : ReportKind) (w : Word) : (s.reportAndAdvance x w).FB = s.FB := rfl
@[simp] theorem State.reportAndAdvance_Key (x : ReportKind) (w : Word) : (s.reportAndAdvance x w).Key = s.Key := rfl
@[simp] theorem State.reportAndAdvance_RP (x : ReportKind) (w : Word) : (s.reportAndAdvance x w).RP = s.RP := rfl
@[simp] theorem State.reportAndAdvance_cfg (x : ReportKind) (w : Word) : (s.reportAndAdvance x w).cfg = s.cfg := rfl
@[simp] theorem State.reportAndAdvance_rndIn (x : ReportKind) (w : Word) : (s.reportAndAdvance x w).rndIn = s.rndIn := rfl
@[simp] theorem State.reportAndAdvance_draws (x : ReportKind) (w : Word) : (s.reportAndAdvance x w).draws = s.draws := rfl
@[simp] theorem State.reportAndAdvance_report (x : ReportKind) (w : Word) : (s.reportAndAdvance x w).report = some ⟨x, s.pc, w⟩ := rfl
@[simp] theorem State.reportAndAdvance_beep (x : ReportKind) (w : Word) : (s.reportAndAdvance x w).beep = s.beep := rfl
@[simp] theorem State.reportAndAdvance_getV (x : ReportKind) (w : Word) (r : Reg) : (s.reportAndAdvance x w).getV r = s.getV r := rfl
@[simp] theorem State.reportAndAdvance_stackAt (x : ReportKind) (w : Word) (j : Nat) : (s.reportAndAdvance x w).stackAt j = s.stackAt j := rfl
@[simp] theorem State.reportAndAdvance_byteAt (x : ReportKind) (w : Word) (a : Nat) : (s.reportAndAdvance x w).byteAt a = s.byteAt a := rfl
@[simp] theorem State.reportAndAdvance_cell (x : ReportKind) (w : Word) (k : Cell) : (s.reportAndAdvance x w).cell k = s.cell k := rfl
@[simp] theorem State.reportAndAdvance_held (x : ReportKind) (w : Word) (k : Reg) : (s.reportAndAdvance x w).held k = s.held k := rfl

/-! `unrecognized`. -/

@[simp] theorem State.unrecognized_V (w : Word) : (s.unrecognized w).V = s.V := rfl
@[simp] theorem State.unrecognized_I (w : Word) : (s.unrecognized w).I = s.I := rfl
@[simp] theorem State.unrecognized_pc (w : Word) : (s.unrecognized w).pc = s.pc + 2 := rfl
@[simp] theorem State.unrecognized_Stack (w : Word) : (s.unrecognized w).Stack = s.Stack := rfl
@[simp] theorem State.unrecognized_SP (w : Word) : (s.unrecognized w).SP = s.SP := rfl
@[simp] theorem State.unrecognized_DT (w : Word) : (s.unrecognized w).DT = s.DT := rfl
@[simp] theorem State.unrecognized_ST (w : Word) : (s.unrecognized w).ST = s.ST := rfl
@[simp] theorem State.unrecognized_M (w : Word) : (s.unrecognized w).M = s.M := rfl
@[simp] theorem State.unrecognized_FB (w : Word) : (s.unrecognized w).FB = s.FB := rfl
@[simp] theorem State.unrecognized_Key (w : Word) : (s.unrecognized w).Key = s.Key := rfl
@[simp] theorem State.unrecognized_RP (w : Word) : (s.unrecognized w).RP = s.RP := rfl
@[simp] theorem State.unrecognized_cfg (w : Word) : (s.unrecognized w).cfg = s.cfg := rfl
@[simp] theorem State.unrecognized_rndIn (w : Word) : (s.unrecognized w).rndIn = s.rndIn := rfl
@[simp] theorem State.unrecognized_draws (w : Word) : (s.unrecognized w).draws = s.draws := rfl
@[simp] theorem State.unrecognized_report (w : Word) : (s.unrecognized w).report = some ⟨.unrecognized, s.pc, w⟩ := rfl
@[simp] theorem State.unrecognized_beep (w : Word) : (s.unrecognized w).beep = s.beep := rfl
@[simp] theorem State.unrecognized_getV (w : Word) (r : Reg) : (s.unrecognized w).getV r = s.getV r := rfl
@[simp] theorem State.unrecognized_stackAt (w : Word) (j : Nat) : (s.unrecognized w).stackAt j = s.stackAt j := rfl
@[simp] theorem State.unrecognized_byteAt (w : Word) (a : Nat) : (s.unrecognized w).byteAt a = s.byteAt a := rfl
@[simp] theorem State.unrecognized_cell (w : Word) (k : Cell) : (s.unrecognized w).cell k = s.cell k := rfl
@[simp] theorem State.unrecognized_held (w : Word) (k : Reg) : (s.unrecognized w).held k = s.held k := rfl

/-! `clearOutputs`. -/

@[simp] theorem State.clearOutputs_V : (s.clearOutputs).V = s.V := rfl
@[simp] theorem State.clearOutputs_I : (s.clearOutputs).I = s.I := rfl
@[simp] theorem State.clearOutputs_pc : (s.clearOutputs).pc = s.pc := rfl
@[simp] theorem State.clearOutputs_Stack : (s.clearOutputs).Stack = s.Stack := rfl
@[simp] theorem State.clearOutputs_SP : (s.clearOutputs).SP = s.SP := rfl
@[simp] theorem State.clearOutputs_DT : (s.clearOutputs).DT = s.DT := rfl
@[simp] theorem State.clearOutputs_ST : (s.clearOutputs).ST = s.ST := rfl
@[simp] theorem State.clearOutputs_M : (s.clearOutputs).M = s.M := rfl
@[simp] theorem State.clearOutputs_FB : (s.clearOutputs).FB = s.FB := rfl
@[simp] theorem State.clearOutputs_Key : (s.clearOutputs).Key = s.Key := rfl
@[simp] theorem State.clearOutputs_RP : (s.clearOutputs).RP = s.RP := rfl
@[simp] theorem State.clearOutputs_cfg : (s.clearOutputs).cfg = s.cfg := rfl
@[simp] theorem State.clearOutputs_rndIn : (s.clearOutputs).rndIn = s.rndIn := rfl
@[simp] theorem State.clearOutputs_draws : (s.clearOutputs).draws = s.draws := rfl
@[simp] theorem State.clearOutputs_report : (s.clearOutputs).report = none := rfl
@[simp] theorem State.clearOutputs_beep : (s.clearOutputs).beep = false := rfl
@[simp] theorem State.clearOutputs_getV (r : Reg) : (s.clearOutputs).getV r = s.getV r := rfl
@[simp] theorem State.clearOutputs_stackAt (j : Nat) : (s.clearOutputs).stackAt j = s.stackAt j := rfl
@[simp] theorem State.clearOutputs_byteAt (a : Nat) : (s.clearOutputs).byteAt a = s.byteAt a := rfl
@[simp] theorem State.clearOutputs_cell (k : Cell) : (s.clearOutputs).cell k = s.cell k := rfl
@[simp] theorem State.clearOutputs_held (k : Reg) : (s.clearOutputs).held k = s.held k := rfl

/-! `tick`. -/

@[simp] theorem State.tick_V : (s.tick).V = s.V := rfl
@[simp] theorem State.tick_I : (s.tick).I = s.I := rfl
@[simp] theorem State.tick_pc : (s.tick).pc = s.pc := rfl
@[simp] theorem State.tick_Stack : (s.tick).Stack = s.Stack := rfl
@[simp] theorem State.tick_SP : (s.tick).SP = s.SP := rfl
@[simp] theorem State.tick_DT : (s.tick).DT = tickTimer s.DT := rfl
@[simp] theorem State.tick_ST : (s.tick).ST = tickTimer s.ST := rfl
@[simp] theorem State.tick_M : (s.tick).M = s.M := rfl
@[simp] theorem State.tick_FB : (s.tick).FB = s.FB := rfl
@[simp] theorem State.tick_Key : (s.tick).Key = s.Key := rfl
@[simp] theorem State.tick_RP : (s.tick).RP = s.RP := rfl
@[simp] theorem State.tick_cfg : (s.tick).cfg = s.cfg := rfl
@[simp] theorem State.tick_rndIn : (s.tick).rndIn = s.rndIn := rfl
@[simp] theorem State.tick_draws : (s.tick).draws = s.draws := rfl
@[simp] theorem State.tick_report : (s.tick).report = s.report := rfl
@[simp] theorem State.tick_beep : (s.tick).beep = decide (s.ST = 1) := rfl
@[simp] theorem State.tick_getV (r : Reg) : (s.tick).getV r = s.getV r := rfl
@[simp] theorem State.tick_stackAt (j : Nat) : (s.tick).stackAt j = s.stackAt j := rfl
@[simp] theorem State.tick_byteAt (a : Nat) : (s.tick).byteAt a = s.byteAt a := rfl
@[simp] theorem State.tick_cell (k : Cell) : (s.tick).cell k = s.cell k := rfl
@[simp] theorem State.tick_held (k : Reg) : (s.tick).held k = s.held k := rfl

/-! `setKey`. -/

@[simp] theorem State.setKey_V (q : Reg) (v : Bool) : (s.setKey q v).V = s.V := rfl
@[simp] theorem State.setKey_I (q : Reg) (v : Bool) : (s.setKey q v).I = s.I := rfl
@[simp] theorem State.setKey_pc (q : Reg) (v : Bool) : (s.setKey q v).pc = s.pc := rfl
@[simp] theorem State.setKey_Stack (q : Reg) (v : Bool) : (s.setKey q v).Stack = s.Stack := rfl
@[simp] theorem State.setKey_SP (q : Reg) (v : Bool) : (s.setKey q v).SP = s.SP := rfl
@[simp] theorem State.setKey_DT (q : Reg) (v : Bool) : (s.setKey q v).DT = s.DT := rfl
@[simp] theorem State.setKey_ST (q : Reg) (v : Bool) : (s.setKey q v).ST = s.ST := rfl
@[simp] theorem State.setKey_M (q : Reg) (v : Bool) : (s.setKey q v).M = s.M := rfl
@[simp] theorem State.setKey_FB (q : Reg) (v : Bool) : (s.setKey q v).FB = s.FB := rfl
@[simp] theorem State.setKey_Key (q : Reg) (v : Bool) : (s.setKey q v).Key = if v then s.Key ||| (1#16 <<< q.val) else s.Key &&& ~~~(1#16 <<< q.val) := rfl
@[simp] theorem State.setKey_RP (q : Reg) (v : Bool) : (s.setKey q v).RP = s.RP := rfl
@[simp] theorem State.setKey_cfg (q : Reg) (v : Bool) : (s.setKey q v).cfg = s.cfg := rfl
@[simp] theorem State.setKey_rndIn (q : Reg) (v : Bool) : (s.setKey q v).rndIn = s.rndIn := rfl
@[simp] theorem State.setKey_draws (q : Reg) (v : Bool) : (s.setKey q v).draws = s.draws := rfl
@[simp] theorem State.setKey_report (q : Reg) (v : Bool) : (s.setKey q v).report = s.report := rfl
@[simp] theorem State.setKey_beep (q : Reg) (v : Bool) : (s.setKey q v).beep = s.beep := rfl
@[simp] theorem State.setKey_getV (q : Reg) (v : Bool) (r : Reg) : (s.setKey q v).getV r = s.getV r := rfl
@[simp] theorem State.setKey_stackAt (q : Reg) (v : Bool) (j : Nat) : (s.setKey q v).stackAt j = s.stackAt j := rfl
@[simp] theorem State.setKey_byteAt (q : Reg) (v : Bool) (a : Nat) : (s.setKey q v).byteAt a = s.byteAt a := rfl
@[simp] theorem State.setKey_cell (q : Reg) (v : Bool) (k : Cell) : (s.setKey q v).cell k = s.cell k := rfl

/-! `clearRP`. -/

@[simp] theorem State.clearRP_V : (s.clearRP).V = s.V := rfl
@[simp] theorem State.clearRP_I : (s.clearRP).I = s.I := rfl
@[simp] theorem State.clearRP_pc : (s.clearRP).pc = s.pc := rfl
@[simp] theorem State.clearRP_Stack : (s.clearRP).Stack = s.Stack := rfl
@[simp] theorem State.clearRP_SP : (s.clearRP).SP = s.SP := rfl
@[simp] theorem State.clearRP_DT : (s.clearRP).DT = s.DT := rfl
@[simp] theorem State.clearRP_ST : (s.clearRP).ST = s.ST := rfl
@[simp] theorem State.clearRP_M : (s.clearRP).M = s.M := rfl
@[simp] theorem State.clearRP_FB : (s.clearRP).FB = s.FB := rfl
@[simp] theorem State.clearRP_Key : (s.clearRP).Key = s.Key := rfl
@[simp] theorem State.clearRP_RP : (s.clearRP).RP = false := rfl
@[simp] theorem State.clearRP_cfg : (s.clearRP).cfg = s.cfg := rfl
@[simp] theorem State.clearRP_rndIn : (s.clearRP).rndIn = s.rndIn := rfl
@[simp] theorem State.clearRP_draws : (s.clearRP).draws = s.draws := rfl
@[simp] theorem State.clearRP_report : (s.clearRP).report = s.report := rfl
@[simp] theorem State.clearRP_beep : (s.clearRP).beep = s.beep := rfl
@[simp] theorem State.clearRP_getV (r : Reg) : (s.clearRP).getV r = s.getV r := rfl
@[simp] theorem State.clearRP_stackAt (j : Nat) : (s.clearRP).stackAt j = s.stackAt j := rfl
@[simp] theorem State.clearRP_byteAt (a : Nat) : (s.clearRP).byteAt a = s.byteAt a := rfl
@[simp] theorem State.clearRP_cell (k : Cell) : (s.clearRP).cell k = s.cell k := rfl
@[simp] theorem State.clearRP_held (k : Reg) : (s.clearRP).held k = s.held k := rfl

/-! `supplyRnd`. -/

@[simp] theorem State.supplyRnd_V (b : Byte) : (s.supplyRnd b).V = s.V := rfl
@[simp] theorem State.supplyRnd_I (b : Byte) : (s.supplyRnd b).I = s.I := rfl
@[simp] theorem State.supplyRnd_pc (b : Byte) : (s.supplyRnd b).pc = s.pc := rfl
@[simp] theorem State.supplyRnd_Stack (b : Byte) : (s.supplyRnd b).Stack = s.Stack := rfl
@[simp] theorem State.supplyRnd_SP (b : Byte) : (s.supplyRnd b).SP = s.SP := rfl
@[simp] theorem State.supplyRnd_DT (b : Byte) : (s.supplyRnd b).DT = s.DT := rfl
@[simp] theorem State.supplyRnd_ST (b : Byte) : (s.supplyRnd b).ST = s.ST := rfl
@[simp] theorem State.supplyRnd_M (b : Byte) : (s.supplyRnd b).M = s.M := rfl
@[simp] theorem State.supplyRnd_FB (b : Byte) : (s.supplyRnd b).FB = s.FB := rfl
@[simp] theorem State.supplyRnd_Key (b : Byte) : (s.supplyRnd b).Key = s.Key := rfl
@[simp] theorem State.supplyRnd_RP (b : Byte) : (s.supplyRnd b).RP = s.RP := rfl
@[simp] theorem State.supplyRnd_cfg (b : Byte) : (s.supplyRnd b).cfg = s.cfg := rfl
@[simp] theorem State.supplyRnd_rndIn (b : Byte) : (s.supplyRnd b).rndIn = s.rndIn ++ [b] := rfl
@[simp] theorem State.supplyRnd_draws (b : Byte) : (s.supplyRnd b).draws = s.draws := rfl
@[simp] theorem State.supplyRnd_report (b : Byte) : (s.supplyRnd b).report = s.report := rfl
@[simp] theorem State.supplyRnd_beep (b : Byte) : (s.supplyRnd b).beep = s.beep := rfl
@[simp] theorem State.supplyRnd_getV (b : Byte) (r : Reg) : (s.supplyRnd b).getV r = s.getV r := rfl
@[simp] theorem State.supplyRnd_stackAt (b : Byte) (j : Nat) : (s.supplyRnd b).stackAt j = s.stackAt j := rfl
@[simp] theorem State.supplyRnd_byteAt (b : Byte) (a : Nat) : (s.supplyRnd b).byteAt a = s.byteAt a := rfl
@[simp] theorem State.supplyRnd_cell (b : Byte) (k : Cell) : (s.supplyRnd b).cell k = s.cell k := rfl
@[simp] theorem State.supplyRnd_held (b : Byte) (k : Reg) : (s.supplyRnd b).held k = s.held k := rfl

/-! `skipIf`. -/

@[simp] theorem State.skipIf_V (c : Bool) : (s.skipIf c).V = s.V := by cases c <;> rfl
@[simp] theorem State.skipIf_I (c : Bool) : (s.skipIf c).I = s.I := by cases c <;> rfl
@[simp] theorem State.skipIf_pc (c : Bool) : (s.skipIf c).pc = if c then s.pc + 4 else s.pc + 2 := by cases c <;> rfl
@[simp] theorem State.skipIf_Stack (c : Bool) : (s.skipIf c).Stack = s.Stack := by cases c <;> rfl
@[simp] theorem State.skipIf_SP (c : Bool) : (s.skipIf c).SP = s.SP := by cases c <;> rfl
@[simp] theorem State.skipIf_DT (c : Bool) : (s.skipIf c).DT = s.DT := by cases c <;> rfl
@[simp] theorem State.skipIf_ST (c : Bool) : (s.skipIf c).ST = s.ST := by cases c <;> rfl
@[simp] theorem State.skipIf_M (c : Bool) : (s.skipIf c).M = s.M := by cases c <;> rfl
@[simp] theorem State.skipIf_FB (c : Bool) : (s.skipIf c).FB = s.FB := by cases c <;> rfl
@[simp] theorem State.skipIf_Key (c : Bool) : (s.skipIf c).Key = s.Key := by cases c <;> rfl
@[simp] theorem State.skipIf_RP (c : Bool) : (s.skipIf c).RP = s.RP := by cases c <;> rfl
@[simp] theorem State.skipIf_cfg (c : Bool) : (s.skipIf c).cfg = s.cfg := by cases c <;> rfl
@[simp] theorem State.skipIf_rndIn (c : Bool) : (s.skipIf c).rndIn = s.rndIn := by cases c <;> rfl
@[simp] theorem State.skipIf_draws (c : Bool) : (s.skipIf c).draws = s.draws := by cases c <;> rfl
@[simp] theorem State.skipIf_report (c : Bool) : (s.skipIf c).report = s.report := by cases c <;> rfl
@[simp] theorem State.skipIf_beep (c : Bool) : (s.skipIf c).beep = s.beep := by cases c <;> rfl
@[simp] theorem State.skipIf_getV (c : Bool) (r : Reg) : (s.skipIf c).getV r = s.getV r := by cases c <;> rfl
@[simp] theorem State.skipIf_stackAt (c : Bool) (j : Nat) : (s.skipIf c).stackAt j = s.stackAt j := by cases c <;> rfl
@[simp] theorem State.skipIf_byteAt (c : Bool) (a : Nat) : (s.skipIf c).byteAt a = s.byteAt a := by cases c <;> rfl
@[simp] theorem State.skipIf_cell (c : Bool) (k : Cell) : (s.skipIf c).cell k = s.cell k := by cases c <;> rfl
@[simp] theorem State.skipIf_held (c : Bool) (k : Reg) : (s.skipIf c).held k = s.held k := by cases c <;> rfl

/-! `rndTaken`. -/

@[simp] theorem State.rndTaken_V : (s.rndTaken).V = s.V := by unfold State.rndTaken; split <;> simp_all
@[simp] theorem State.rndTaken_I : (s.rndTaken).I = s.I := by unfold State.rndTaken; split <;> simp_all
@[simp] theorem State.rndTaken_pc : (s.rndTaken).pc = s.pc := by unfold State.rndTaken; split <;> simp_all
@[simp] theorem State.rndTaken_Stack : (s.rndTaken).Stack = s.Stack := by unfold State.rndTaken; split <;> simp_all
@[simp] theorem State.rndTaken_SP : (s.rndTaken).SP = s.SP := by unfold State.rndTaken; split <;> simp_all
@[simp] theorem State.rndTaken_DT : (s.rndTaken).DT = s.DT := by unfold State.rndTaken; split <;> simp_all
@[simp] theorem State.rndTaken_ST : (s.rndTaken).ST = s.ST := by unfold State.rndTaken; split <;> simp_all
@[simp] theorem State.rndTaken_M : (s.rndTaken).M = s.M := by unfold State.rndTaken; split <;> simp_all
@[simp] theorem State.rndTaken_FB : (s.rndTaken).FB = s.FB := by unfold State.rndTaken; split <;> simp_all
@[simp] theorem State.rndTaken_Key : (s.rndTaken).Key = s.Key := by unfold State.rndTaken; split <;> simp_all
@[simp] theorem State.rndTaken_RP : (s.rndTaken).RP = s.RP := by unfold State.rndTaken; split <;> simp_all
@[simp] theorem State.rndTaken_cfg : (s.rndTaken).cfg = s.cfg := by unfold State.rndTaken; split <;> simp_all
@[simp] theorem State.rndTaken_rndIn : (s.rndTaken).rndIn = s.rndIn.tail := by unfold State.rndTaken; split <;> simp_all
@[simp] theorem State.rndTaken_draws : (s.rndTaken).draws = if s.rndIn.isEmpty then s.draws + 1 else s.draws := by unfold State.rndTaken; split <;> simp_all
@[simp] theorem State.rndTaken_report : (s.rndTaken).report = s.report := by unfold State.rndTaken; split <;> simp_all
@[simp] theorem State.rndTaken_beep : (s.rndTaken).beep = s.beep := by unfold State.rndTaken; split <;> simp_all
@[simp] theorem State.rndTaken_getV (r : Reg) : (s.rndTaken).getV r = s.getV r := by unfold State.rndTaken; split <;> rfl
@[simp] theorem State.rndTaken_stackAt (j : Nat) : (s.rndTaken).stackAt j = s.stackAt j := by unfold State.rndTaken; split <;> rfl
@[simp] theorem State.rndTaken_byteAt (a : Nat) : (s.rndTaken).byteAt a = s.byteAt a := by unfold State.rndTaken; split <;> rfl
@[simp] theorem State.rndTaken_cell (k : Cell) : (s.rndTaken).cell k = s.cell k := by unfold State.rndTaken; split <;> rfl
@[simp] theorem State.rndTaken_held (k : Reg) : (s.rndTaken).held k = s.held k := by unfold State.rndTaken; split <;> rfl

/-! `blockIncrement`. -/

@[simp] theorem State.blockIncrement_V (i : Word) (x : Reg) : (s.blockIncrement i x).V = s.V := by unfold State.blockIncrement; split <;> rfl
@[simp] theorem State.blockIncrement_I (i : Word) (x : Reg) : (s.blockIncrement i x).I = if s.cfg.blockIncrementsI then trunc16 (i.toNat + x.val + 1) else s.I := by unfold State.blockIncrement; split <;> rfl
@[simp] theorem State.blockIncrement_pc (i : Word) (x : Reg) : (s.blockIncrement i x).pc = s.pc := by unfold State.blockIncrement; split <;> rfl
@[simp] theorem State.blockIncrement_Stack (i : Word) (x : Reg) : (s.blockIncrement i x).Stack = s.Stack := by unfold State.blockIncrement; split <;> rfl
@[simp] theorem State.blockIncrement_SP (i : Word) (x : Reg) : (s.blockIncrement i x).SP = s.SP := by unfold State.blockIncrement; split <;> rfl
@[simp] theorem State.blockIncrement_DT (i : Word) (x : Reg) : (s.blockIncrement i x).DT = s.DT := by unfold State.blockIncrement; split <;> rfl
@[simp] theorem State.blockIncrement_ST (i : Word) (x : Reg) : (s.blockIncrement i x).ST = s.ST := by unfold State.blockIncrement; split <;> rfl
@[simp] theorem State.blockIncrement_M (i : Word) (x : Reg) : (s.blockIncrement i x).M = s.M := by unfold State.blockIncrement; split <;> rfl
@[simp] theorem State.blockIncrement_FB (i : Word) (x : Reg) : (s.blockIncrement i x).FB = s.FB := by unfold State.blockIncrement; split <;> rfl
@[simp] theorem State.blockIncrement_Key (i : Word) (x : Reg) : (s.blockIncrement i x).Key = s.Key := by unfold State.blockIncrement; split <;> rfl
@[simp] theorem State.blockIncrement_RP (i : Word) (x : Reg) : (s.blockIncrement i x).RP = s.RP := by unfold State.blockIncrement; split <;> rfl
@[simp] theorem State.blockIncrement_cfg (i : Word) (x : Reg) : (s.blockIncrement i x).cfg = s.cfg := by unfold State.blockIncrement; split <;> rfl
@[simp] theorem State.blockIncrement_rndIn (i : Word) (x : Reg) : (s.blockIncrement i x).rndIn = s.rndIn := by unfold State.blockIncrement; split <;> rfl
@[simp] theorem State.blockIncrement_draws (i : Word) (x : Reg) : (s.blockIncrement i x).draws = s.draws := by unfold State.blockIncrement; split <;> rfl
@[simp] theorem State.blockIncrement_report (i : Word) (x : Reg) : (s.blockIncrement i x).report = s.report := by unfold State.blockIncrement; split <;> rfl
@[simp] theorem State.blockIncrement_beep (i : Word) (x : Reg) : (s.blockIncrement i x).beep = s.beep := by unfold State.blockIncrement; split <;> rfl
@[simp] theorem State.blockIncrement_getV (i : Word) (x : Reg) (r : Reg) : (s.blockIncrement i x).getV r = s.getV r := by unfold State.blockIncrement; split <;> rfl
@[simp] theorem State.blockIncrement_stackAt (i : Word) (x : Reg) (j : Nat) : (s.blockIncrement i x).stackAt j = s.stackAt j := by unfold State.blockIncrement; split <;> rfl
@[simp] theorem State.blockIncrement_byteAt (i : Word) (x : Reg) (a : Nat) : (s.blockIncrement i x).byteAt a = s.byteAt a := by unfold State.blockIncrement; split <;> rfl
@[simp] theorem State.blockIncrement_cell (i : Word) (x : Reg) (k : Cell) : (s.blockIncrement i x).cell k = s.cell k := by unfold State.blockIncrement; split <;> rfl
@[simp] theorem State.blockIncrement_held (i : Word) (x : Reg) (k : Reg) : (s.blockIncrement i x).held k = s.held k := by unfold State.blockIncrement; split <;> rfl

end Sys2Proof.Machine
end

