-- ==== Sys2Proof/Laws/Ops.lean ====
section
/-! SUPPORT. One lemma for what each shared operation does: registers, memory, the block transfers, the stack, the
framebuffer, the keypad and the fetch. -/

namespace Sys2Proof.Machine

variable (s : State)

/-! Registers. -/

@[simp] theorem State.getV_setV_same (r : Reg) (v : Byte) : (s.setV r v).getV r = v := by
  simp [State.getV, State.setV]

theorem State.getV_setV_ne {r q : Reg} (v : Byte) (h : q ≠ r) : (s.setV r v).getV q = s.getV q := by
  have : r.val ≠ q.val := fun e => h (Fin.ext e.symm)
  simp [State.getV, State.setV, this]

theorem State.getV_setV (r q : Reg) (v : Byte) : (s.setV r v).getV q = if q = r then v else s.getV q := by
  split
  · rename_i h; subst h; simp
  · rename_i h; exact s.getV_setV_ne v h

/-- The flag overwrites the result when the destination is VF (R83). -/
theorem State.getV_setVThenFlag (x q : Reg) (r : AluResult) :
    (s.setVThenFlag x r).getV q = if q = vf then flagByte r.flag else if q = x then r.value else s.getV q := by
  simp only [State.setVThenFlag, State.getV_setV]

/-! Memory. -/

theorem State.byteAt_setByte (a b : Nat) (v : Byte) :
    (s.setByte a v).byteAt b = if b = a then v else s.byteAt b :=
  Memory.read_write _ _ _ _ _

theorem State.byteAt_memWrite (a b : Nat) (v : Byte) :
    (s.memWrite a v).byteAt b = if b = clampA a then v else s.byteAt b :=
  s.byteAt_setByte _ _ _

theorem clampA_lt (a : Nat) : clampA a < memSize := by
  simp only [clampA, memSize]; omega

theorem clampA_of_lt {a : Nat} (h : a < 0x1000) : clampA a = a := by
  simp only [clampA]; omega

theorem clampA_of_ge {a : Nat} (h : 0x0FFF ≤ a) : clampA a = 0x0FFF := by
  simp only [clampA]; omega

theorem State.wf_memWrite (a : Nat) (v : Byte) (h : s.M.wf s.cfg.fontBase = true) :
    (s.memWrite a v).M.wf s.cfg.fontBase = true :=
  Memory.wf_write _ _ _ _ (clampA_lt a) h

/-- `storeBytes` touches memory only. -/
theorem State.storeBytes_fields (i : Word) (k : Nat) (bs : List Byte) :
    s.storeBytes i k bs = { s with M := (s.storeBytes i k bs).M } := by
  induction bs generalizing s k with
  | nil => rfl
  | cons b rest ih => exact ih (s.memWrite (i.toNat + k) b) (k + 1)

/-- A byte after one more byte is stored at the end of a block. -/
theorem State.byteAt_storeBytes_append (i : Word) (k : Nat) (bs : List Byte) (b : Byte) (a : Nat) :
    (s.storeBytes i k (bs ++ [b])).byteAt a =
      if a = clampA (i.toNat + k + bs.length) then b else (s.storeBytes i k bs).byteAt a := by
  induction bs generalizing s k with
  | nil => exact s.byteAt_memWrite _ _ _
  | cons c rest ih =>
    have h := ih (s.memWrite (i.toNat + k) c) (k + 1)
    simp only [List.length_cons, List.cons_append, State.storeBytes]
    rw [h]
    congr 3
    omega

theorem State.byteAt_storeBytes_outside (i : Word) (k : Nat) (bs : List Byte) (a : Nat)
    (h : ∀ j, j < bs.length → a ≠ clampA (i.toNat + k + j)) : (s.storeBytes i k bs).byteAt a = s.byteAt a := by
  induction bs generalizing s k with
  | nil => rfl
  | cons b rest ih =>
    have h0 : a ≠ clampA (i.toNat + k) := h 0 (by simp)
    have hr := ih (s.memWrite (i.toNat + k) b) (k + 1) (fun j hj => by
      have := h (j + 1) (by simpa using hj)
      rwa [show i.toNat + (k + 1) + j = i.toNat + k + (j + 1) by omega])
    simp only [State.storeBytes]
    rw [hr, State.byteAt_memWrite, if_neg h0]

/-- A byte stored and not stored over later holds what was stored. -/
theorem State.byteAt_storeBytes_last (i : Word) (k : Nat) (bs : List Byte) (j : Nat) (b : Byte)
    (hj : bs[j]? = some b) (hl : ∀ m, j < m → m < bs.length → clampA (i.toNat + k + m) ≠ clampA (i.toNat + k + j)) :
    (s.storeBytes i k bs).byteAt (clampA (i.toNat + k + j)) = b := by
  induction bs generalizing s k j with
  | nil => simp at hj
  | cons c rest ih =>
    cases j with
    | zero =>
      simp at hj; subst hj
      simp only [State.storeBytes]
      rw [State.byteAt_storeBytes_outside, State.byteAt_memWrite]
      · simp
      · intro m hm e
        refine hl (m+1) (by omega) (by simpa using hm) ?_
        rw [e]; congr 1; omega
    | succ j =>
      simp only [State.storeBytes]
      have := ih (s.memWrite (i.toNat + k) c) (k+1) j (by simpa using hj) (fun m h1 h2 e => by
        refine hl (m+1) (by omega) (by simpa using h2) ?_
        rw [show i.toNat + k + (m+1) = i.toNat + (k+1) + m by omega, e]; congr 1; omega)
      rw [← this]; congr 2; omega

theorem State.wf_storeBytes (i : Word) (k : Nat) (bs : List Byte) (h : s.M.wf s.cfg.fontBase = true) :
    (s.storeBytes i k bs).M.wf s.cfg.fontBase = true := by
  induction bs generalizing s k with
  | nil => exact h
  | cons b rest ih => exact ih (s.memWrite (i.toNat + k) b) (k + 1) (s.wf_memWrite _ _ h)

@[simp] theorem State.memRead_setV (q : Reg) (v : Byte) (a : Nat) : (s.setV q v).memRead a = s.memRead a := rfl

/-- `loadInto` touches V only. -/
theorem State.loadInto_fields (i : Word) (rs : List Reg) :
    s.loadInto i rs = { s with V := (s.loadInto i rs).V } := by
  induction rs generalizing s with
  | nil => rfl
  | cons r rest ih => exact ih (s.setV r (s.memRead (i.toNat + r.val)))

/-- `loadInto` gives each listed register its byte and leaves the others. -/
theorem State.getV_loadInto (i : Word) (rs : List Reg) (q : Reg) :
    (s.loadInto i rs).getV q = if q ∈ rs then s.memRead (i.toNat + q.val) else s.getV q := by
  induction rs generalizing s with
  | nil => simp [State.loadInto]
  | cons r rest ih =>
    simp only [State.loadInto, ih, State.memRead_setV, State.getV_setV, List.mem_cons]
    by_cases h1 : q ∈ rest <;> by_cases h2 : q = r <;> simp [h1, h2]

@[simp] theorem mem_regsUpTo (x k : Reg) : k ∈ regsUpTo x ↔ k ≤ x := by
  simp [regsUpTo]

/-- The registers up to x are 0 to x in order, so the k-th is Vk. -/
theorem regsUpTo_eq (x : Reg) :
    regsUpTo x = (List.range (x.val + 1)).pmap (fun k h => (⟨k, h⟩ : Reg))
      (by intro k hk; simp at hk; omega) := by
  revert x; decide

@[simp] theorem length_regsUpTo (x : Reg) : (regsUpTo x).length = x.val + 1 := by
  simp [regsUpTo_eq]

/-- The k-th byte that FX55 stores is Vk. -/
theorem State.getElem_map_regsUpTo (x k : Reg) (h : k ≤ x) : ((regsUpTo x).map s.getV)[k.val]? = some (s.getV k) := by
  rw [regsUpTo_eq]
  simp
  have hk : k.val ≤ x.val := h
  have : k.val < x.val + 1 := by omega
  simp [this]

/-! The fetch. -/

theorem State.wordOfBytes_fetch : wordOfBytes (s.memRead s.pc.toNat) (s.memRead (s.pc.toNat + 1)) = s.fetchWord := rfl

/-- Decoding the fetched bytes is decoding the fetched word. -/
theorem State.decode_fetchBytes :
    decode s.fetchBytes =
      match decodeWord s.fetchWord with
      | .ok i => .ok (i, [])
      | .error r => .error r := rfl

/-- The next fetch after `withFetchWord` gives the word, whatever the state. -/
theorem State.fetchWord_withFetchWord (nbits w : Nat) :
    (s.withFetchWord nbits w).fetchWord = BitVec.ofNat 16 (w % 2 ^ nbits) := by
  have key : ∀ (p : State) (word : Word), p.pc.toNat < 0x0FFF →
      ((p.memWrite p.pc.toNat (hiByte word)).memWrite (p.pc.toNat + 1) (loByte word)).fetchWord = word := by
    intro p word hp
    have h1 : clampA p.pc.toNat = p.pc.toNat := clampA_of_lt (by omega)
    have h2 : clampA (p.pc.toNat + 1) = p.pc.toNat + 1 := clampA_of_lt (by omega)
    simp [State.fetchWord, State.memRead2, State.memRead, State.byteAt_memWrite, h1, h2]
  unfold State.withFetchWord
  by_cases h : s.pc.toNat < 0x0FFF
  · simpa [h] using key s _ h
  · simpa [h] using key (s.setPc (trunc16 programBase)) _ (show (trunc16 programBase).toNat < 0x0FFF by decide)

/-! The stack. -/

/-- When CALL reports instead of pushing (R75). -/
theorem State.stackFull_iff : s.stackFull = true ↔ s.cfg.stackPolicy = .report ∧ s.SP.val = 16 := by
  simp [State.stackFull]

/-- When RET reports instead of popping (R76). -/
theorem State.stackEmpty_iff : s.stackEmpty = true ↔ s.cfg.stackPolicy = .report ∧ s.SP.val = 0 := by
  simp [State.stackEmpty]

theorem State.stackAt_push (v : Word) (j : Nat) :
    (s.push v).stackAt j = if j % 16 = s.SP.val % 16 then v else s.stackAt j := by
  simp only [State.stackAt, State.push, Vector.getElem_set]
  by_cases h : j % 16 = s.SP.val % 16
  · simp [h]
  · simp [h, Ne.symm h]

theorem spAfterPush_report {sp : Fin 17} (h : sp.val < 16) : (spAfterPush .report sp).val = sp.val + 1 := by
  simp [spAfterPush]; omega
theorem spAfterPush_wrap (sp : Fin 17) : (spAfterPush .wrap sp).val = (sp.val + 1) % 16 := by
  simp [spAfterPush]; omega
theorem spAfterPop_report {sp : Fin 17} (_h : 0 < sp.val) : (spAfterPop .report sp).val = sp.val - 1 := by
  simp [spAfterPop]; omega
theorem spAfterPop_wrap (sp : Fin 17) : (spAfterPop .wrap sp).val = (sp.val + 15) % 16 := by
  simp [spAfterPop]; omega

/-! The framebuffer. -/

theorem Framebuffer.cell_toggle (f : Framebuffer) (k j : Cell) :
    (f.toggle k).cell j = if j = k then !f.cell j else f.cell j := by
  have hk : k.val % 64 < 64 := Nat.mod_lt _ (by omega)
  have hj : j.val % 64 < 64 := Nat.mod_lt _ (by omega)
  simp only [Framebuffer.cell, Framebuffer.toggle, Vector.getElem_set]
  by_cases hrow : k.val / 64 = j.val / 64
  · by_cases hcol : j.val % 64 = k.val % 64
    · have : j = k := Fin.ext (by omega)
      subst this
      simp [hj]
    · have hne : j ≠ k := fun e => hcol (by rw [e])
      simp only [hrow, hne, if_true, if_false, BitVec.getLsbD_xor, BitVec.getLsbD_shiftLeft, hj]
      have : (1#64).getLsbD (j.val % 64 - k.val % 64) = false ∨ j.val % 64 < k.val % 64 := by
        by_cases hlt : j.val % 64 < k.val % 64
        · exact .inr hlt
        · left
          simp [BitVec.getLsbD_one]
          omega
      rcases this with h | h <;> simp [h]
  · have hne : j ≠ k := fun e => hrow (by rw [e])
    simp [hrow, hne]

@[simp] theorem Framebuffer.cell_blank (k : Cell) : Framebuffer.blank.cell k = false := by
  simp [Framebuffer.cell, Framebuffer.blank]

/-- A cell after a run of toggles: changed once for each time it is listed. -/
theorem cell_toggleCells (f : Framebuffer) (hit : Bool) (ks : List Cell) (j : Cell) :
    (toggleCells f hit ks).1.cell j = (f.cell j ^^ decide (ks.count j % 2 = 1)) := by
  induction ks generalizing f hit with
  | nil => simp [toggleCells]
  | cons k rest ih =>
    simp only [toggleCells, ih, Framebuffer.cell_toggle, List.count_cons]
    by_cases h : j = k
    · subst h
      rcases Nat.mod_two_eq_zero_or_one (rest.count j) with h0 | h0
      · have h1 : (rest.count j + 1) % 2 = 1 := by omega
        simp [h0, h1]
      · have h1 : (rest.count j + 1) % 2 = 0 := by omega
        simp [h0, h1]
    · have h2 : k ≠ j := fun e => h e.symm
      simp [h, h2]

/-- The collision flag: it was set before, or some toggle finds its cell at 1. -/
theorem hit_toggleCells (f : Framebuffer) (hit : Bool) (ks : List Cell) :
    (toggleCells f hit ks).2 = true ↔
      hit = true ∨ ∃ before k after, ks = before ++ k :: after ∧
        (f.cell k ^^ decide (before.count k % 2 = 1)) = true := by
  induction ks generalizing f hit with
  | nil => simp [toggleCells]
  | cons c rest ih =>
    have step : ∀ (before : List Cell) (k : Cell),
        ((f.toggle c).cell k ^^ decide (before.count k % 2 = 1)) =
          (f.cell k ^^ decide ((c :: before).count k % 2 = 1)) := fun before k => by
      rw [← cell_toggleCells (f.toggle c) (false || f.cell c) before k, ← cell_toggleCells f false (c :: before) k]
      rfl
    simp only [toggleCells, ih, step]
    constructor
    · rintro (h | ⟨before, k, after, rfl, h⟩)
      · rcases Bool.or_eq_true _ _ |>.mp h with h | h
        · exact .inl h
        · exact .inr ⟨[], c, rest, rfl, by simpa using h⟩
      · exact .inr ⟨c :: before, k, after, rfl, h⟩
    · rintro (h | ⟨before, k, after, he, h⟩)
      · simp [h]
      · cases before with
        | nil =>
          simp only [List.nil_append, List.cons.injEq] at he
          obtain ⟨rfl, rfl⟩ := he
          have hc : f.cell c = true := by simpa using h
          simp [hc]
        | cons b bs =>
          simp only [List.cons_append, List.cons.injEq] at he
          obtain ⟨rfl, rfl⟩ := he
          exact .inr ⟨bs, k, after, rfl, h⟩

/-! The keypad. -/

theorem State.held_setKey (q k : Reg) (v : Bool) : (s.setKey q v).held k = if k = q then v else s.held k := by
  have hk := k.isLt
  by_cases h : k = q
  · subst h
    cases v <;> simp [State.held]
  · have hne : k.val ≠ q.val := fun e => h (Fin.ext e)
    by_cases hlt : k.val < q.val
    · cases v <;> simp [State.held, h, hlt]
    · have h0 : ¬ k.val - q.val = 0 := by omega
      cases v <;> simp [State.held, h, hlt, h0]

/-- The lowest held scanned key, if one is given. -/
theorem State.lowestHeld_some {k : Reg} (h : s.lowestHeld = some k) :
    k.val < s.cfg.keywaitScanLimit.value ∧ s.held k = true := by
  have := List.find?_some h
  simpa using this

/-- None is given exactly when no scanned key is held. -/
theorem State.lowestHeld_none :
    s.lowestHeld = none ↔ ∀ k : Reg, k.val < s.cfg.keywaitScanLimit.value → s.held k = false := by
  simp [State.lowestHeld, List.find?_eq_none]

/-- No scanned key below the one given is held. -/
theorem State.lowestHeld_least {k j : Reg} (h : s.lowestHeld = some k) (hj : j < k) : s.held j = false := by
  obtain ⟨hp, as, bs, hsplit, hbefore⟩ := List.find?_eq_some_iff_append.mp h
  have hlim : j.val < s.cfg.keywaitScanLimit.value :=
    lt_trans hj (s.lowestHeld_some h).1
  have hmem : j ∈ as := by
    have hall : j ∈ as ++ k :: bs := hsplit ▸ List.mem_finRange j
    rcases List.mem_append.mp hall with h' | h'
    · exact h'
    · have hp : (as ++ k :: bs).Pairwise (· < ·) := hsplit ▸ List.pairwise_lt_finRange 16
      rcases List.mem_cons.mp h' with rfl | h''
      · exact absurd hj (lt_irrefl _)
      · have := (List.pairwise_cons.mp (List.pairwise_append.mp hp).2.1).1 j h''
        exact absurd hj (not_lt_of_gt this)
  have := hbefore j hmem
  simp [hlim] at this
  exact this

/-! The timer. -/

theorem tickTimer_toNat (t : Byte) : (tickTimer t).toNat = t.toNat - 1 := by
  unfold tickTimer
  split
  · rename_i h
    have h1 : (1 : Byte) ≤ t := by rw [BitVec.le_def]; exact h
    rw [BitVec.toNat_sub_of_le h1]
    rfl
  · omega

end Sys2Proof.Machine
end

