-- ==== Sys2Proof/Laws/PerInstr.lean ====
section
/-! SUPPORT. The family EncodesInItsRow of LAWS.json: each instruction's word is one that its row of the opcode map
(spec/30_encoding.md R66) matches. -/

namespace Sys2Proof.Laws

/-- The row of an instruction is a row of R66 and matches the word the encoder builds. -/
def EncodesInItsRow.Statement (i : Instr) : Prop :=
  rowOf i ∈ opcodeMap ∧ (rowOf i).matches (encode i) = true

theorem matches_F000 (p w : Word) (h : wordNNN (famOf w) 0 = p) : (OpcodeRow.mk 0xF000 p).matches w = true := by
  simp only [OpcodeRow.matches, beq_iff_eq]
  exact (and_F000 w).trans h

theorem matches_F00F (p w : Word) (h : wordXYN (famOf w) 0 0 (nOf w) = p) :
    (OpcodeRow.mk 0xF00F p).matches w = true := by
  simp only [OpcodeRow.matches, beq_iff_eq]
  exact (and_F00F w).trans h

theorem matches_F0FF (p w : Word) (h : wordXNN (famOf w) 0 (nnOf w) = p) :
    (OpcodeRow.mk 0xF0FF p).matches w = true := by
  simp only [OpcodeRow.matches, beq_iff_eq]
  exact (and_F0FF w).trans h

theorem EncodesInItsRow.sys (nnn : Addr12) : EncodesInItsRow.Statement (.sys nnn) :=
  ⟨by simp [rowOf, opcodeMap], matches_F000 _ _ (by rw [encode, famOf_wordNNN]; rfl)⟩
theorem EncodesInItsRow.cls : EncodesInItsRow.Statement (.cls) :=
  ⟨by decide, by decide⟩
theorem EncodesInItsRow.ret : EncodesInItsRow.Statement (.ret) :=
  ⟨by decide, by decide⟩
theorem EncodesInItsRow.jp (nnn : Addr12) : EncodesInItsRow.Statement (.jp nnn) :=
  ⟨by simp [rowOf, opcodeMap], matches_F000 _ _ (by rw [encode, famOf_wordNNN]; rfl)⟩
theorem EncodesInItsRow.call (nnn : Addr12) : EncodesInItsRow.Statement (.call nnn) :=
  ⟨by simp [rowOf, opcodeMap], matches_F000 _ _ (by rw [encode, famOf_wordNNN]; rfl)⟩
theorem EncodesInItsRow.seImm (x : Reg) (nn : Byte) : EncodesInItsRow.Statement (.seImm x nn) :=
  ⟨by simp [rowOf, opcodeMap], matches_F000 _ _ (by rw [encode, famOf_wordXNN]; rfl)⟩
theorem EncodesInItsRow.sneImm (x : Reg) (nn : Byte) : EncodesInItsRow.Statement (.sneImm x nn) :=
  ⟨by simp [rowOf, opcodeMap], matches_F000 _ _ (by rw [encode, famOf_wordXNN]; rfl)⟩
theorem EncodesInItsRow.seReg (x : Reg) (y : Reg) (n : Nibble) : EncodesInItsRow.Statement (.seReg x y n) :=
  ⟨by simp [rowOf, opcodeMap], matches_F000 _ _ (by rw [encode, famOf_wordXYN]; rfl)⟩
theorem EncodesInItsRow.ldImm (x : Reg) (nn : Byte) : EncodesInItsRow.Statement (.ldImm x nn) :=
  ⟨by simp [rowOf, opcodeMap], matches_F000 _ _ (by rw [encode, famOf_wordXNN]; rfl)⟩
theorem EncodesInItsRow.addImm (x : Reg) (nn : Byte) : EncodesInItsRow.Statement (.addImm x nn) :=
  ⟨by simp [rowOf, opcodeMap], matches_F000 _ _ (by rw [encode, famOf_wordXNN]; rfl)⟩
theorem EncodesInItsRow.ldReg (x : Reg) (y : Reg) : EncodesInItsRow.Statement (.ldReg x y) :=
  ⟨by simp [rowOf, opcodeMap], matches_F00F _ _ (by rw [encode, famOf_wordXYN, nOf_wordXYN]; rfl)⟩
theorem EncodesInItsRow.orReg (x : Reg) (y : Reg) : EncodesInItsRow.Statement (.orReg x y) :=
  ⟨by simp [rowOf, opcodeMap], matches_F00F _ _ (by rw [encode, famOf_wordXYN, nOf_wordXYN]; rfl)⟩
theorem EncodesInItsRow.andReg (x : Reg) (y : Reg) : EncodesInItsRow.Statement (.andReg x y) :=
  ⟨by simp [rowOf, opcodeMap], matches_F00F _ _ (by rw [encode, famOf_wordXYN, nOf_wordXYN]; rfl)⟩
theorem EncodesInItsRow.xorReg (x : Reg) (y : Reg) : EncodesInItsRow.Statement (.xorReg x y) :=
  ⟨by simp [rowOf, opcodeMap], matches_F00F _ _ (by rw [encode, famOf_wordXYN, nOf_wordXYN]; rfl)⟩
theorem EncodesInItsRow.addReg (x : Reg) (y : Reg) : EncodesInItsRow.Statement (.addReg x y) :=
  ⟨by simp [rowOf, opcodeMap], matches_F00F _ _ (by rw [encode, famOf_wordXYN, nOf_wordXYN]; rfl)⟩
theorem EncodesInItsRow.subReg (x : Reg) (y : Reg) : EncodesInItsRow.Statement (.subReg x y) :=
  ⟨by simp [rowOf, opcodeMap], matches_F00F _ _ (by rw [encode, famOf_wordXYN, nOf_wordXYN]; rfl)⟩
theorem EncodesInItsRow.shr (x : Reg) (y : Reg) : EncodesInItsRow.Statement (.shr x y) :=
  ⟨by simp [rowOf, opcodeMap], matches_F00F _ _ (by rw [encode, famOf_wordXYN, nOf_wordXYN]; rfl)⟩
theorem EncodesInItsRow.subnReg (x : Reg) (y : Reg) : EncodesInItsRow.Statement (.subnReg x y) :=
  ⟨by simp [rowOf, opcodeMap], matches_F00F _ _ (by rw [encode, famOf_wordXYN, nOf_wordXYN]; rfl)⟩
theorem EncodesInItsRow.shl (x : Reg) (y : Reg) : EncodesInItsRow.Statement (.shl x y) :=
  ⟨by simp [rowOf, opcodeMap], matches_F00F _ _ (by rw [encode, famOf_wordXYN, nOf_wordXYN]; rfl)⟩
theorem EncodesInItsRow.sneReg (x : Reg) (y : Reg) (n : Nibble) : EncodesInItsRow.Statement (.sneReg x y n) :=
  ⟨by simp [rowOf, opcodeMap], matches_F000 _ _ (by rw [encode, famOf_wordXYN]; rfl)⟩
theorem EncodesInItsRow.ldI (nnn : Addr12) : EncodesInItsRow.Statement (.ldI nnn) :=
  ⟨by simp [rowOf, opcodeMap], matches_F000 _ _ (by rw [encode, famOf_wordNNN]; rfl)⟩
theorem EncodesInItsRow.jpV0 (nnn : Addr12) : EncodesInItsRow.Statement (.jpV0 nnn) :=
  ⟨by simp [rowOf, opcodeMap], matches_F000 _ _ (by rw [encode, famOf_wordNNN]; rfl)⟩
theorem EncodesInItsRow.rnd (x : Reg) (nn : Byte) : EncodesInItsRow.Statement (.rnd x nn) :=
  ⟨by simp [rowOf, opcodeMap], matches_F000 _ _ (by rw [encode, famOf_wordXNN]; rfl)⟩
theorem EncodesInItsRow.drw (x : Reg) (y : Reg) (n : Nibble) : EncodesInItsRow.Statement (.drw x y n) :=
  ⟨by simp [rowOf, opcodeMap], matches_F000 _ _ (by rw [encode, famOf_wordXYN]; rfl)⟩
theorem EncodesInItsRow.skp (x : Reg) : EncodesInItsRow.Statement (.skp x) :=
  ⟨by simp [rowOf, opcodeMap], matches_F0FF _ _ (by rw [encode, famOf_wordXNN, nnOf_wordXNN]; rfl)⟩
theorem EncodesInItsRow.sknp (x : Reg) : EncodesInItsRow.Statement (.sknp x) :=
  ⟨by simp [rowOf, opcodeMap], matches_F0FF _ _ (by rw [encode, famOf_wordXNN, nnOf_wordXNN]; rfl)⟩
theorem EncodesInItsRow.ldVxDT (x : Reg) : EncodesInItsRow.Statement (.ldVxDT x) :=
  ⟨by simp [rowOf, opcodeMap], matches_F0FF _ _ (by rw [encode, famOf_wordXNN, nnOf_wordXNN]; rfl)⟩
theorem EncodesInItsRow.ldVxK (x : Reg) : EncodesInItsRow.Statement (.ldVxK x) :=
  ⟨by simp [rowOf, opcodeMap], matches_F0FF _ _ (by rw [encode, famOf_wordXNN, nnOf_wordXNN]; rfl)⟩
theorem EncodesInItsRow.ldDTVx (x : Reg) : EncodesInItsRow.Statement (.ldDTVx x) :=
  ⟨by simp [rowOf, opcodeMap], matches_F0FF _ _ (by rw [encode, famOf_wordXNN, nnOf_wordXNN]; rfl)⟩
theorem EncodesInItsRow.ldSTVx (x : Reg) : EncodesInItsRow.Statement (.ldSTVx x) :=
  ⟨by simp [rowOf, opcodeMap], matches_F0FF _ _ (by rw [encode, famOf_wordXNN, nnOf_wordXNN]; rfl)⟩
theorem EncodesInItsRow.addI (x : Reg) : EncodesInItsRow.Statement (.addI x) :=
  ⟨by simp [rowOf, opcodeMap], matches_F0FF _ _ (by rw [encode, famOf_wordXNN, nnOf_wordXNN]; rfl)⟩
theorem EncodesInItsRow.ldF (x : Reg) : EncodesInItsRow.Statement (.ldF x) :=
  ⟨by simp [rowOf, opcodeMap], matches_F0FF _ _ (by rw [encode, famOf_wordXNN, nnOf_wordXNN]; rfl)⟩
theorem EncodesInItsRow.ldB (x : Reg) : EncodesInItsRow.Statement (.ldB x) :=
  ⟨by simp [rowOf, opcodeMap], matches_F0FF _ _ (by rw [encode, famOf_wordXNN, nnOf_wordXNN]; rfl)⟩
theorem EncodesInItsRow.storeRegs (x : Reg) : EncodesInItsRow.Statement (.storeRegs x) :=
  ⟨by simp [rowOf, opcodeMap], matches_F0FF _ _ (by rw [encode, famOf_wordXNN, nnOf_wordXNN]; rfl)⟩
theorem EncodesInItsRow.loadRegs (x : Reg) : EncodesInItsRow.Statement (.loadRegs x) :=
  ⟨by simp [rowOf, opcodeMap], matches_F0FF _ _ (by rw [encode, famOf_wordXNN, nnOf_wordXNN]; rfl)⟩

end Sys2Proof.Laws
end

