-- ==== Sys2Proof/Laws/Step.lean ====
section
/-! SUPPORT. What a step can do, said once, and what the host's moves do. -/

namespace Sys2Proof.Machine

/-- If a step answers a next state, it ran an unrecognized word (R68) or one instruction, and then ticked (R71). -/
theorem step_cases {s t : State} (h : step s = .next t) :
    (∃ e, decodeWord s.fetchWord = .error e ∧ t = (s.clearOutputs.unrecognized s.fetchWord).tick) ∨
    (∃ i u, decodeWord s.fetchWord = .ok i ∧ exec i s.clearOutputs = .next u ∧ t = u.tick) := by
  unfold step at h
  rw [State.decode_fetchBytes] at h
  have hf : s.clearOutputs.fetchWord = s.fetchWord := rfl
  rw [hf] at h
  cases hd : decodeWord s.fetchWord with
  | error e =>
    rw [hd] at h
    exact .inl ⟨e, rfl, by simpa using h.symm⟩
  | ok i =>
    rw [hd] at h
    cases hx : exec i s.clearOutputs with
    | next u =>
      simp only [hx] at h
      exact .inr ⟨i, u, rfl, hx, by simpa using h.symm⟩
    | fault r => exact nomatch r
    | refused r => simp [hx] at h

/-- The step on a recognized word, in terms of the fetched word. -/
theorem step_of_recognized {s : State} {i : Instr} (h : decodeWord s.fetchWord = .ok i) :
    step s =
      match exec i s.clearOutputs with
      | .next t => .next t.tick
      | .fault r => .fault r
      | .refused r => .refused r := by
  have hf : s.clearOutputs.fetchWord = s.fetchWord := rfl
  cases hx : exec i s.clearOutputs <;> simp only [step, State.decode_fetchBytes, hf, h, hx]

/-- The step on an unrecognized word, in terms of the fetched word. -/
theorem step_of_unrecognized {s : State} {e : Reject} (h : decodeWord s.fetchWord = .error e) :
    step s = .next (s.clearOutputs.unrecognized s.fetchWord).tick := by
  have hf : s.clearOutputs.fetchWord = s.fetchWord := rfl
  unfold step
  rw [State.decode_fetchBytes, hf, h]

/-! The loader. -/

theorem State.placeBytes_fields (s : State) (a : Nat) (bs : List Byte) :
    s.placeBytes a bs = { s with M := (s.placeBytes a bs).M } := by
  induction bs generalizing s a with
  | nil => rfl
  | cons b rest ih => exact ih (s.setByte a b) (a + 1)

/-- A byte after an image is placed: the image's byte inside it, the byte before outside it. -/
theorem State.byteAt_placeBytes (s : State) (a c : Nat) (bs : List Byte) :
    (s.placeBytes a bs).byteAt c = if a ≤ c then (bs[c - a]?).getD (s.byteAt c) else s.byteAt c := by
  induction bs generalizing s a with
  | nil => simp [State.placeBytes]
  | cons b rest ih =>
    simp only [State.placeBytes, ih, State.byteAt_setByte]
    by_cases h : a = c
    · subst h
      simp
    · by_cases hle : a ≤ c
      · have h1 : a + 1 ≤ c := by omega
        have h2 : c - a = (c - (a + 1)) + 1 := by omega
        simp [h1, hle, h2, Ne.symm h]
      · have h1 : ¬ a + 1 ≤ c := by omega
        simp [h1, hle, Ne.symm h]

theorem State.wf_placeBytes (s : State) (a : Nat) (bs : List Byte) (ha : a + bs.length ≤ memSize)
    (h : s.M.wf s.cfg.fontBase = true) : (s.placeBytes a bs).M.wf s.cfg.fontBase = true := by
  induction bs generalizing s a with
  | nil => exact h
  | cons b rest ih =>
    simp only [List.length_cons] at ha
    exact ih (s.setByte a b) (a + 1) (by omega) (Memory.wf_write _ _ _ _ (by omega) h)

end Sys2Proof.Machine
end

