-- ==== Sys2Proof/Tests/Slice0.lean ====
section
/-! SUPPORT. Tests. The words and the expected values are those of spec/30_encoding.md R66 and R67 and of the vectors
of spec/95_test_vectors.md, whose ids the comments name; none comes from the model. After them, for each obligation
with hypotheses, a witness: a concrete state and operands that meet them together, at the ends of their ranges. -/

namespace Sys2Proof.Tests

open Sys2Proof.Machine

/-! ## Helpers -/

/-- A word of the table decodes to an instruction. -/
def reads (w : Nat) (i : Instr) : Bool := decide (decodeTableWord 16 w = some i)

/-- One step on the word `w` answers a next state of which `p` holds. -/
def after (s : State) (w : Nat) (p : State → Bool) : Bool :=
  match step (s.withFetchWord 16 w) with
  | .next t => p t
  | .fault _ => false
  | .refused _ => false

/-- One execute phase, with no fetch and no tick. -/
def executed (i : Instr) (s : State) (p : State → Bool) : Bool :=
  match exec i s with
  | .next t => p t
  | .fault _ => false
  | .refused _ => false

/-- The reset state with V0 and V1 set. -/
def v01 (a b : Byte) : State := (State.reset.setV 0 a).setV 1 b

/-- The reset state under another configuration of the stack. -/
def wrapped : State := State.resetWith { defaultConfig with stackPolicy := .wrap }

/-- The reset state with keys held. -/
def holding (keys : BitVec 16) : State := { State.reset with Key := keys }

/-- A report of the step just made. -/
def reported (t : State) (k : ReportKind) (pc w : Word) : Bool := decide (t.report = some ⟨k, pc, w⟩)

/-- The numbers of the cells that are 1 among the first `n` cells. -/
def lit (t : State) (n : Nat) : List Nat :=
  (List.range n).filter fun k => t.cell (Fin.ofNat 2048 k)

/-! ## WellFormed: the one check, and that it refuses -/

theorem test_sys_0E0_is_ill_formed : WellFormed (.sys 0x0E0) = false := by decide
theorem test_sys_0EE_is_ill_formed : WellFormed (.sys 0x0EE) = false := by decide
theorem test_sys_0E1_is_well_formed : WellFormed (.sys 0x0E1) = true := by decide

/-! ## Decoding: every constructor, from the words of R66 -/

theorem test_decode_family_0 :
    (reads 0x0123 (.sys 0x123) && reads 0x0000 (.sys 0x000) && reads 0x01E0 (.sys 0x1E0) &&
      reads 0x00E0 .cls && reads 0x00EE .ret) = true := by decide
theorem test_decode_jumps :
    (reads 0x1ABC (.jp 0xABC) && reads 0x2208 (.call 0x208) && reads 0xB300 (.jpV0 0x300)) = true := by decide
theorem test_decode_skips :
    (reads 0x332A (.seImm 3 0x2A) && reads 0x432A (.sneImm 3 0x2A) && reads 0x5017 (.seReg 0 1 7) &&
      reads 0x9AB0 (.sneReg 10 11 0)) = true := by decide
theorem test_decode_immediates :
    (reads 0x6A2A (.ldImm 10 0x2A) && reads 0x7F01 (.addImm 15 0x01) && reads 0xC30F (.rnd 3 0x0F)) = true := by decide
theorem test_decode_family_8_logic :
    (reads 0x8010 (.ldReg 0 1) && reads 0x8F11 (.orReg 15 1) && reads 0x8012 (.andReg 0 1) &&
      reads 0x8203 (.xorReg 2 0)) = true := by decide
theorem test_decode_family_8_arithmetic :
    (reads 0x8014 (.addReg 0 1) && reads 0x8015 (.subReg 0 1) && reads 0x8016 (.shr 0 1) &&
      reads 0x8547 (.subnReg 5 4) && reads 0x8F0E (.shl 15 0)) = true := by decide
theorem test_decode_index_and_display :
    (reads 0xAFFF (.ldI 0xFFF) && reads 0xD125 (.drw 1 2 5)) = true := by decide
theorem test_decode_family_E :
    (reads 0xE79E (.skp 7) && reads 0xE0A1 (.sknp 0)) = true := by decide
theorem test_decode_family_F_timers :
    (reads 0xF307 (.ldVxDT 3) && reads 0xFF0A (.ldVxK 15) && reads 0xF215 (.ldDTVx 2) &&
      reads 0xF018 (.ldSTVx 0)) = true := by decide
theorem test_decode_family_F_memory :
    (reads 0xFF1E (.addI 15) && reads 0xF129 (.ldF 1) && reads 0xF033 (.ldB 0) && reads 0xF255 (.storeRegs 2) &&
      reads 0xFF65 (.loadRegs 15)) = true := by decide
theorem test_decode_refuses_by_name :
    decodeWord 0x8018 = .error (.unrecognized8 8) ∧ decodeWord 0xE09F = .error (.unrecognizedE 0x9F) ∧
      decodeWord 0xF0FF = .error (.unrecognizedF 0xFF) ∧ decode [0x12] = .error .truncated := by decide
/-- R67 counts 1792 words of family 8, which is 7 values of `n` for each x and y: here those of x = 3, y = 5. -/
theorem test_unrecognized_count_of_8X :
    ((List.range 16).filter fun k => decodeTableWord 16 (0x8350 + k) == none).length = 7 := by decide
/-- R67 counts 254 words of family E and 247 of family F for each x. -/
theorem test_unrecognized_counts_of_EX_and_FX :
    ((List.range 256).filter fun k => decodeTableWord 16 (0xE300 + k) == none).length = 254 ∧
    ((List.range 256).filter fun k => decodeTableWord 16 (0xF300 + k) == none).length = 247 := by
  decide +kernel

/-! ## Reset (R36) and the font (R47) -/

theorem test_reset_fields :
    State.reset.pc = 0x200 ∧ State.reset.SP = 0 ∧ State.reset.getV 15 = 0 ∧ State.reset.report = none := by decide
theorem test_font_glyphs_0_and_F :
    (List.range 5).map State.reset.byteAt = [0xF0, 0x90, 0x90, 0x90, 0xF0] ∧
    (List.range 6).map (fun k => State.reset.byteAt (75 + k)) = [0xF0, 0x80, 0xF0, 0x80, 0x80, 0x00] := by decide

/-! ## Control flow (2.1) -/

/-- V-C1. -/
theorem test_sys : after State.reset 0x0123 (fun t => t.pc == 0x202 && t.report == none) = true := by decide
/-- V-C3. -/
theorem test_sys_01E0_is_not_cls :
    after (State.reset.drawFrame (Framebuffer.blank.toggle 0)).clearRP 0x01E0
      (fun t => t.pc == 0x202 && lit t 70 == [0] && !t.RP) = true := by decide
/-- V-C5. -/
theorem test_jp_to_odd : after State.reset 0x1201 (fun t => t.pc == 0x201) = true := by decide
/-- V-C6. -/
theorem test_call : after State.reset 0x2300
    (fun t => t.stackAt 0 == 0x200 && t.SP == 1 && t.pc == 0x300 && t.report == none) = true := by decide
/-- V-C7. -/
theorem test_call_on_full_stack : after { State.reset with SP := 16 } 0x2300
    (fun t => t.SP == 16 && t.stackAt 0 == 0 && t.pc == 0x202 && reported t .stackOverflow 0x200 0x2300) = true := by
  decide
/-- V-C13. -/
theorem test_ret_wraps_pc :
    after { State.reset with SP := 1, Stack := State.reset.Stack.set 0 0xFFFF } 0x00EE
      (fun t => t.SP == 0 && t.pc == 0x0001 && t.stackAt 0 == 0xFFFF) = true := by decide
/-- V-C11. -/
theorem test_ret_on_empty_stack_under_wrap : after wrapped 0x00EE
    (fun t => t.SP == 15 && t.pc == 0x0002 && t.report == none) = true := by decide
/-- V-C14. -/
theorem test_jpV0_uses_V0 : after (v01 0x04 0x09) 0xB300 (fun t => t.pc == 0x304) = true := by decide
/-- V-C15. -/
theorem test_jpV0_past_memory : after (v01 0xFF 0) 0xBFFF (fun t => t.pc == 0x10FE) = true := by decide
/-- V-C16, V-C17. -/
theorem test_seImm :
    (after (State.reset.setV 3 0x2A) 0x332A (fun t => t.pc == 0x204) &&
      after (State.reset.setV 3 0x2B) 0x332A (fun t => t.pc == 0x202)) = true := by decide
/-- V-C23: at pc = 0xFFFE the fetch clamps and the skip wraps. -/
theorem test_seImm_wraps :
    (match step { ((State.reset.setByte 0xFFF 0x30).setV 0 0x30) with pc := 0xFFFE } with
     | .next t => t.pc == 0x0002
     | .fault _ => false
     | .refused _ => false) = true := by decide
/-- V-C18, V-C19. -/
theorem test_sneImm :
    (after (State.reset.setV 3 0x2A) 0x432A (fun t => t.pc == 0x202) &&
      after State.reset 0x432A (fun t => t.pc == 0x204)) = true := by decide
/-- V-C20. -/
theorem test_seReg_ignores_n : after (v01 3 3) 0x5017 (fun t => t.pc == 0x204) = true := by decide
/-- V-C21, V-C22. -/
theorem test_sneReg :
    (after (v01 3 3) 0x9010 (fun t => t.pc == 0x202) && after (v01 1 2) 0x9010 (fun t => t.pc == 0x204)) = true := by
  decide

/-! ## Registers and arithmetic (2.2) -/

/-- V-A1. -/
theorem test_ldImm : after State.reset 0x6A2A (fun t => t.getV 10 == 0x2A && t.pc == 0x202) = true := by decide
/-- V-A2. -/
theorem test_addImm_sets_no_flag : after ((v01 0xFF 0).setV 15 0x55) 0x7001
    (fun t => t.getV 0 == 0 && t.getV 15 == 0x55) = true := by decide
/-- V-A5. -/
theorem test_ldReg : after (v01 0 7) 0x8010 (fun t => t.getV 0 == 7 && t.getV 1 == 7) = true := by decide
/-- V-A6. -/
theorem test_orReg_keeps_VF : after ((v01 0x0F 0xF0).setV 15 1) 0x8011
    (fun t => t.getV 0 == 0xFF && t.getV 15 == 1) = true := by decide
/-- V-A8. -/
theorem test_andReg : after (v01 0x3C 0x0F) 0x8012 (fun t => t.getV 0 == 0x0C) = true := by decide
/-- V-A9. -/
theorem test_xorReg : after (v01 0xFF 0x0F) 0x8013 (fun t => t.getV 0 == 0xF0) = true := by decide
/-- V-A11. -/
theorem test_addReg_carry : after (v01 0xFF 0xFF) 0x8014
    (fun t => t.getV 0 == 0xFE && t.getV 15 == 1 && t.getV 1 == 0xFF) = true := by decide
/-- V-A13, V-A14. -/
theorem test_addReg_with_VF :
    (after ((v01 0 1).setV 15 0xFF) 0x8F14 (fun t => t.getV 15 == 1) &&
      after ((v01 0x10 0).setV 15 1) 0x80F4 (fun t => t.getV 0 == 0x11 && t.getV 15 == 0)) = true := by decide
/-- S3. -/
theorem test_subReg_borrow : after (v01 1 2) 0x8015 (fun t => t.getV 0 == 0xFF && t.getV 15 == 0) = true := by decide
/-- V-A15, V-A18. -/
theorem test_subReg_equal :
    (after (v01 5 5) 0x8015 (fun t => t.getV 0 == 0 && t.getV 15 == 1) &&
      after ((v01 0 1).setV 15 1) 0x8F15 (fun t => t.getV 15 == 1)) = true := by decide
/-- V-A20, V-A21. -/
theorem test_subnReg :
    (after (v01 1 5) 0x8017 (fun t => t.getV 0 == 4 && t.getV 15 == 1) &&
      after (v01 2 1) 0x8017 (fun t => t.getV 0 == 0xFF && t.getV 15 == 0)) = true := by decide
/-- V-A23. -/
theorem test_shr_does_not_read_Vy : after (v01 4 0xFF) 0x8016
    (fun t => t.getV 0 == 2 && t.getV 15 == 0 && t.getV 1 == 0xFF) = true := by decide
/-- V-A25. -/
theorem test_shr_of_VF : after (State.reset.setV 15 3) 0x8F06 (fun t => t.getV 15 == 1) = true := by decide
/-- V-A26. -/
theorem test_shl : after (v01 0x81 0) 0x800E (fun t => t.getV 0 == 2 && t.getV 15 == 1) = true := by decide
/-- V-A29. -/
theorem test_shl_of_VF : after (State.reset.setV 15 1) 0x8F0E (fun t => t.getV 15 == 0) = true := by decide
/-- V-A30. -/
theorem test_rnd_masks_the_host_byte : after (State.reset.supplyRnd 0xB7) 0xC30F
    (fun t => t.getV 3 == 0x07 && t.rndIn == [] && t.draws == 0) = true := by decide

/-! ## Index register and memory (2.3) -/

/-- V-M1. -/
theorem test_ldI : after State.reset 0xAFFF (fun t => t.I == 0x0FFF) = true := by decide
/-- V-M2, V-M3. -/
theorem test_addI_flag :
    (after ((v01 1 0).setI 0x0FFF) 0xF01E (fun t => t.I == 0x1000 && t.getV 15 == 1) &&
      after (((v01 0x0F 0).setI 0x0FF0).setV 15 1) 0xF01E (fun t => t.I == 0x0FFF && t.getV 15 == 0)) = true := by
  decide
/-- V-M6. -/
theorem test_addI_of_VF : after ((State.reset.setI 0x100).setV 15 0x20) 0xFF1E
    (fun t => t.I == 0x120 && t.getV 15 == 0) = true := by decide
/-- V-M9. -/
theorem test_ldF_is_not_masked : after (v01 0xFF 0) 0xF029 (fun t => t.I == 0x04FB) = true := by decide
/-- V-M10. -/
theorem test_ldF_adds_no_base :
    after ((State.resetWith { defaultConfig with fontBase := 0x050 }).setV 0 1) 0xF029 (fun t => t.I == 5) = true := by
  decide
/-- S4. -/
theorem test_ldB : after ((v01 0xFE 0).setI 0x300) 0xF033
    (fun t => (List.range 4).map (fun k => t.byteAt (0x300 + k)) == [2, 5, 4, 0] && t.I == 0x300) = true := by decide
/-- V-M13. -/
theorem test_ldB_past_memory : after ((v01 123 0).setI 0x2000) 0xF033
    (fun t => t.byteAt 0xFFF == 3 && t.byteAt 0xFFE == 0) = true := by decide
/-- V-M16. -/
theorem test_storeRegs_clamps : after (((v01 1 2).setV 2 3).setI 0x0FFE) 0xF255
    (fun t => t.byteAt 0xFFE == 1 && t.byteAt 0xFFF == 3 && t.I == 0x0FFE) = true := by decide
/-- V-M15. -/
theorem test_storeRegs_increments :
    after ((((State.resetWith { defaultConfig with blockIncrementsI := true }).setV 0 1).setV 2 3).setI 0x400) 0xF255
      (fun t => t.byteAt 0x400 == 1 && t.byteAt 0x401 == 0 && t.byteAt 0x402 == 3 && t.I == 0x403) = true := by decide
/-- V-M19. -/
theorem test_loadRegs_reads_its_own_bytes : after ((State.reset.setI 0x200).setV 2 9) 0xF165
    (fun t => t.getV 0 == 0xF1 && t.getV 1 == 0x65 && t.getV 2 == 9) = true := by decide

/-! ## Display (2.4) -/

/-- S1, with one cell of each row on. -/
theorem test_cls : after (State.reset.drawFrame (Vector.replicate 32 (BitVec.allOnes 64))).clearRP 0x00E0
    (fun t => t.cell 0 == false && t.cell 2047 == false && t.RP && t.pc == 0x202) = true := by decide
/-- V-D4: columns past 63 run onto the next row. -/
theorem test_drw_runs_onto_the_next_row : after (((v01 62 0).setI 0x300).setByte 0x300 0xF0) 0xD011
    (fun t => lit t 130 == [62, 63, 64, 65] && t.getV 15 == 0 && t.RP) = true := by decide
/-- V-D5: cell 2047 is toggled eight times. -/
theorem test_drw_clamps_to_the_last_cell : after (((v01 63 31).setI 0x300).setByte 0x300 0xFF) 0xD011
    (fun t => t.cell 2047 == false && t.getV 15 == 1 && t.RP) = true := by decide

/-! ## Keypad and timers (2.5) -/

/-- V-K3, V-K2. -/
theorem test_skp :
    (after ((holding 0x8000).setV 0 20) 0xE09E (fun t => t.pc == 0x204) &&
      after (v01 7 0) 0xE09E (fun t => t.pc == 0x202)) = true := by decide
/-- V-K4, V-K6. -/
theorem test_sknp :
    (after ((holding 0x0080).setV 0 7) 0xE0A1 (fun t => t.pc == 0x202) &&
      after (v01 16 0) 0xE0A1 (fun t => t.pc == 0x204)) = true := by decide
/-- V-K7. -/
theorem test_ldVxK_takes_the_lowest : after (holding 0x0088) 0xF00A
    (fun t => t.getV 0 == 3 && t.pc == 0x202) = true := by decide
/-- V-K10. -/
theorem test_ldVxK_waits_and_ticks : after { State.reset with DT := 5, ST := 1 } 0xF00A
    (fun t => t.pc == 0x200 && t.DT == 4 && t.ST == 0 && t.beep) = true := by decide
/-- V-T1. -/
theorem test_ldVxDT_reads_before_the_tick : after (State.reset.setDT 0x3C) 0xF307
    (fun t => t.getV 3 == 0x3C && t.DT == 0x3B) = true := by decide
/-- V-T3, V-T4. -/
theorem test_ldDTVx :
    (after (State.reset.setV 2 3) 0xF215 (fun t => t.DT == 2) &&
      after (State.reset.setDT 9) 0xF215 (fun t => t.DT == 0)) = true := by decide
/-- V-T5, V-T6. -/
theorem test_ldSTVx_beeps_at_1 :
    (after (v01 1 0) 0xF018 (fun t => t.ST == 0 && t.beep) &&
      after (State.reset.setST 1) 0xF018 (fun t => t.ST == 0 && !t.beep)) = true := by decide
/-- V-T8. -/
theorem test_unrecognized_word : after (State.reset.setST 1) 0xE0FF
    (fun t => t.pc == 0x202 && t.ST == 0 && t.beep && reported t .unrecognized 0x200 0xE0FF) = true := by decide

/-! ## Fetch (2.6) and the interface's two functions -/

/-- V-E6. -/
theorem test_fetch_at_the_last_byte :
    { State.reset.setByte 0xFFF 0x12 with pc := 0x0FFF }.fetchWord = 0x1212 := by decide
/-- V-E8. -/
theorem test_fetch_at_an_odd_address :
    { (State.reset.setByte 0x201 0x12).setByte 0x202 0x34 with pc := 0x0201 }.fetchWord = 0x1234 := by decide
/-- The rewritten word of program P8 and a word that equals the reset contents leave memory canonical. -/
theorem test_withFetchWord_is_canonical :
    (State.reset.withFetchWord 16 0x120A).M = [(0x200, 0x12), (0x201, 0x0A)] ∧
      ((State.reset.withFetchWord 16 0x120A).withFetchWord 16 0x0000).M = [] := by decide

/-! ## Witnesses

Each meets the hypotheses of the obligation it is named after, one per clause, at a boundary of the range. -/

theorem witness_DecodeUndoesEncode : WellFormed (.sys 0x0E1) = true ∧ WellFormed (.drw 15 15 15) = true := by decide

theorem witness_EncodeUndoesDecode :
    decodeWord 0x00E1 = .ok (.sys 0x0E1) ∧ decodeWord 0xFF65 = .ok (.loadRegs 15) := by decide

theorem witness_DecodeTreeAgreesWithOpcodeMap :
    (decodeWord 0x00E0 = .ok .cls ∧ ⟨0xF000, 0x0000⟩ ∈ opcodeMap ∧
      OpcodeRow.matches ⟨0xF000, 0x0000⟩ 0x00E0 = true ∧ (⟨0xF000, 0x0000⟩ : OpcodeRow) ≠ rowOf .cls) ∧
    decodeWord 0x800F = .error (.unrecognized8 0xF) := by decide

theorem witness_UnrecognizedWordsAreTheThreeSets :
    decodeWord 0x8008 = .error (.unrecognized8 8) ∧ decodeWord 0xE09D = .error (.unrecognizedE 0x9D) ∧
      decodeWord 0xF000 = .error (.unrecognizedF 0) := by decide

theorem witness_FetchIsBigEndianAndClamped :
    (State.reset.setPc 0x0FFE).pc.toNat < 0x0FFF ∧ 0x0FFF ≤ (State.reset.setPc 0x0FFF).pc.toNat := by decide

/-- The first word read from reset is 0000, and the last place a step fetches from is 0xFFF. -/
theorem witness_StepRunsTheDecodedInstruction :
    ∀ s ∈ [State.reset, State.reset.setPc 0xFFFF],
      decode [s.byteAt (min s.pc.toNat 0x0FFF), s.byteAt (min (s.pc.toNat + 1) 0x0FFF)] = .ok (.sys 0, []) := by
  decide

theorem witness_UnrecognizedWordIsAReportedNoop :
    decodeWord (State.reset.withFetchWord 16 0xF0FF).fetchWord = .error (.unrecognizedF 0xFF) := by decide

/-- The two ends of the stack under each policy, and both cases of the key wait. -/
theorem witness_ProgramCounterAdvances :
    ({ State.reset with SP := 16 }.cfg.stackPolicy = .report ∧ { State.reset with SP := 16 }.SP.val = 16) ∧
    (State.reset.cfg.stackPolicy = .report ∧ State.reset.SP.val = 0) ∧ wrapped.cfg.stackPolicy = .wrap ∧
    (∀ k : Reg, k.val < scannedKeys State.reset.cfg → State.reset.Key.getLsbD k.val = false) ∧
    ¬ (∀ k : Reg, k.val < scannedKeys State.reset.cfg → (holding 0x4000).Key.getLsbD k.val = false) ∧
    decodeWord (State.reset.withFetchWord 16 0x800F).fetchWord = .error (.unrecognized8 0xF) := by decide

theorem witness_TimerTickEndsEveryStep :
    decodeWord (State.reset.withFetchWord 16 0xF215).fetchWord = .ok (.ldDTVx 2) ∧
    decodeWord (State.reset.withFetchWord 16 0xF018).fetchWord = .ok (.ldSTVx 0) ∧
    (State.reset.setST 1).ST.toNat = 1 := by decide

theorem witness_ReportOutputOfEveryStep :
    decodeWord (State.reset.withFetchWord 16 0xE000).fetchWord = .error (.unrecognizedE 0) ∧
    decodeWord ({ State.reset with SP := 16 }.withFetchWord 16 0x2FFF).fetchWord = .ok (.call 0xFFF) ∧
    decodeWord (State.reset.withFetchWord 16 0x00EE).fetchWord = .ok .ret := by decide

/-- Two machines that differ in the last step's outputs and in the random bytes after the next one. -/
theorem witness_StepIsAFunctionOfStateConfigAndInput :
    let s := State.reset.supplyRnd 0xB7
    let s' := { s.supplyRnd 0x11 with beep := true, draws := 7 }
    s.toArch = s'.toArch ∧ s.cfg = s'.cfg ∧ s.rndByte = s'.rndByte ∧ s ≠ s' := by decide

theorem witness_CallPushesItsAddressAndJumps :
    ¬ ({ State.reset with SP := 15 }.cfg.stackPolicy = .report ∧ { State.reset with SP := 15 }.SP.val = 16) ∧
    ¬ ({ wrapped with SP := 16 }.cfg.stackPolicy = .report ∧ { wrapped with SP := 16 }.SP.val = 16) ∧
    ({ State.reset with SP := 16 }.cfg.stackPolicy = .report ∧ { State.reset with SP := 16 }.SP.val = 16) := by decide

theorem witness_RetPopsAndReturnsPastTheCall :
    ¬ ({ State.reset with SP := 1 }.cfg.stackPolicy = .report ∧ { State.reset with SP := 1 }.SP.val = 0) ∧
    ¬ (wrapped.cfg.stackPolicy = .report ∧ wrapped.SP.val = 0) ∧
    (State.reset.cfg.stackPolicy = .report ∧ State.reset.SP.val = 0) := by decide

/-- The last entry, under `REPORT` and under `WRAP`. -/
theorem witness_RetUndoesCall :
    (∃ t u, { State.reset with SP := 15 }.SP.val < 16 ∧ exec (.call 0xFFF) { State.reset with SP := 15 } = .next t ∧
      exec .ret t = .next u) ∧
    (∃ t u, { wrapped with SP := 15 }.SP.val < 16 ∧ exec (.call 0xFFF) { wrapped with SP := 15 } = .next t ∧
      exec .ret t = .next u) :=
  ⟨⟨_, _, by decide, rfl, rfl⟩, ⟨_, _, by decide, rfl, rfl⟩⟩

/-- A sprite that collides and one that does not; and a destination next to VF. -/
theorem witness_VfIsWrittenAsAFlagByExactlySeven :
    TogglesCollide ((State.reset.setByte 0x300 0xC0).setI 0x300)
      (spriteToggles ((State.reset.setByte 0x300 0xC0).setI 0x300) 63 31 1) ∧
    ¬ TogglesCollide State.reset (spriteToggles State.reset 0 0 0) ∧ (14 : Reg) ≠ 15 :=
  ⟨⟨[2047], 2047, [], by decide, by decide⟩,
   fun ⟨_, _, _, h, _⟩ => absurd h (by simp [spriteToggles]), by decide⟩

theorem witness_AddSubtractAndShift : (14 : Reg) ≠ 15 ∧ (0 : Reg) ≠ 15 := by decide

theorem witness_RandomByteUnderMask :
    (State.reset.supplyRnd 0xFF).rndIn = 0xFF :: [] ∧ State.reset.rndIn = [] := by decide

/-- The three addresses fall together at the end of memory. -/
theorem witness_BcdStoresThreeDigits :
    clampA ((State.reset.setI 0x0FFF).I.toNat + 2) = clampA (State.reset.setI 0x0FFF).I.toNat ∧
      clampA ((State.reset.setI 0x0FFD).I.toNat + 2) ≠ clampA ((State.reset.setI 0x0FFD).I.toNat + 1) := by decide

/-- At I = 0xFFF only V15 is not stored over; at I = 0xFF0 no register is. -/
theorem witness_BlockStore :
    (∀ j : Reg, 15 < j → j ≤ 15 →
      clampA ((State.reset.setI 0xFFF).I.toNat + j.val) ≠ clampA ((State.reset.setI 0xFFF).I.toNat + (15 : Reg).val)) ∧
    (∀ j : Reg, 0 < j → j ≤ 15 →
      clampA ((State.reset.setI 0xFF0).I.toNat + j.val) ≠ clampA ((State.reset.setI 0xFF0).I.toNat + (0 : Reg).val)) := by
  decide

theorem witness_BlockLoad : (15 : Reg) ≤ 15 ∧ (0 : Reg) ≤ 0 := by decide

/-- The largest I for x = 0, for x = 1 and for x = 15. -/
theorem witness_BlockRoundTrip :
    ∀ p ∈ [((0 : Reg), (0xFFFF : Word)), (1, 0x0FFE), (15, 0x0FF0)],
      ∃ t q u, (p.1 = 0 ∨ (State.reset.setI p.2).I.toNat + p.1.val < 0x1000) ∧
        exec (.storeRegs p.1) (State.reset.setI p.2) = .next t ∧ q.I = (State.reset.setI p.2).I ∧
        (∀ a, q.byteAt a = t.byteAt a) ∧ exec (.loadRegs p.1) q = .next u := by
  intro p hp
  obtain ⟨t, ht⟩ : ∃ t, exec (.storeRegs p.1) (State.reset.setI p.2) = .next t := ⟨_, rfl⟩
  refine ⟨t, t.setI p.2, _, ?_, ht, rfl, fun _ => rfl, rfl⟩
  clear ht t
  simp only [List.mem_cons, List.not_mem_nil, or_false] at hp
  rcases hp with rfl | rfl | rfl <;> decide

/-- FX55 with its block at the next word, one byte below it, and with all of it clamped onto 0xFFF, where only the last
register counts; FX33 at the next word, and at the last place, where the tens digit is stored over. -/
theorem witness_StoreIsSeenByTheNextFetch :
    (let s := ((State.reset.setPc 0x0FFC).setI 0x0FFE).withFetchWord 16 0xF155
     decodeWord s.fetchWord = .ok (.storeRegs 1) ∧
       (∀ j : Reg, 0 < j → j ≤ 1 → clampA (s.I.toNat + j.val) ≠ clampA (s.I.toNat + (0 : Reg).val)) ∧
       clampA (s.I.toNat + (0 : Reg).val) = clampA (s.pc + 2).toNat ∧
       clampA (s.I.toNat + (1 : Reg).val) = clampA ((s.pc + 2).toNat + 1)) ∧
    (let s := ((State.reset.setPc 0x0200).setI 0x0201).withFetchWord 16 0xF155
     decodeWord s.fetchWord = .ok (.storeRegs 1) ∧
       clampA (s.I.toNat + (1 : Reg).val) = clampA (s.pc + 2).toNat) ∧
    (let s := ((State.reset.setPc 0x0FFC).setI 0xFFF0).withFetchWord 16 0xFF55
     decodeWord s.fetchWord = .ok (.storeRegs 15) ∧ (∀ j : Reg, 15 < j → j ≤ 15 → False) ∧
       clampA (s.I.toNat + (15 : Reg).val) = clampA ((s.pc + 2).toNat + 1)) ∧
    (let s := ((State.reset.setPc 0x0200).setI 0x0202).withFetchWord 16 0xF033
     decodeWord s.fetchWord = .ok (.ldB 0) ∧
       (∀ k < 2, ∀ j < 3, k < j → clampA (s.I.toNat + j) ≠ clampA (s.I.toNat + k)) ∧
       clampA (s.I.toNat + 0) = clampA (s.pc + 2).toNat ∧ clampA (s.I.toNat + 1) = clampA ((s.pc + 2).toNat + 1)) ∧
    (let s := ((State.reset.setPc 0x0FFC).setI 0x0FFE).withFetchWord 16 0xF033
     decodeWord s.fetchWord = .ok (.ldB 0) ∧ clampA (s.I.toNat + 2) = clampA (s.I.toNat + 1) ∧
       clampA (s.I.toNat + 2) = clampA ((s.pc + 2).toNat + 1)) := by decide

theorem witness_DrawingTwiceRestoresTheFramebuffer :
    ∃ t u, exec (.drw 0 1 1) (State.reset.setByte 0 0x80) = .next t ∧ exec (.drw 0 1 1) t = .next u ∧
      t.getV 0 = (State.reset.setByte 0 0x80).getV 0 ∧ t.getV 1 = (State.reset.setByte 0 0x80).getV 1 ∧
      (0 : Cell).val ∈ spriteToggles (State.reset.setByte 0 0x80) 0 0 1 ∧ t.cell 0 = true :=
  ⟨_, _, rfl, rfl, by decide, by decide, by decide, by decide⟩

/-- A step of each of the three kinds; and the host's clear of a flag that is set. -/
theorem witness_FramebufferWritePortIsTheOnlyPath :
    (∀ w ∈ [0x00E0, 0xD00F, 0x0000], after State.reset w (fun _ => true) = true) ∧
    ((State.reset.drawFrame Framebuffer.blank).hostMove (.setKey 0 true)).RP = true := by decide

theorem witness_RedrawFlagIsAHandshakeOnly :
    (∃ t, exec .cls State.reset = .next t) ∧ (∃ t, exec (.drw 0 0 0) State.reset = .next t) ∧
    (State.reset.drawFrame Framebuffer.blank).RP = true ∧
    after (State.reset.drawFrame Framebuffer.blank) 0x6000 (fun _ => true) = true :=
  ⟨⟨_, rfl⟩, ⟨_, rfl⟩, by decide, by decide⟩

/-- With the limit 15 only key 15 is held: none is taken; with the limit 16 key 15 is the lowest held. -/
theorem witness_KeyWaitTakesTheLowestHeldKey :
    (∀ k : Reg, k.val < scannedKeys (holding 0x8000).cfg → (holding 0x8000).held k = false) ∧
    (let s := { holding 0x8000 with cfg := { defaultConfig with keywaitScanLimit := .sixteen } }
     (15 : Reg).val < scannedKeys s.cfg ∧ s.held 15 = true ∧ ∀ j : Reg, j < 15 → s.held j = false) := by decide

theorem witness_KeySkips :
    ((v01 15 0).getV 0).toNat = (15 : Reg).val ∧
    (16 ≤ ((v01 16 0).getV 0).toNat ∧ (15 : Reg) = 15) ∧ 16 ≤ ((v01 255 0).getV 0).toNat := by decide

theorem witness_SoundTimerIsUnreadAndKeypadUnwritten :
    (∃ t, exec (.ldVxDT 0) State.reset = .next t) ∧
    ∀ x, Instr.ldVxDT 0 ≠ .ldVxK x ∧ Instr.ldVxDT 0 ≠ .skp x ∧ Instr.ldVxDT 0 ≠ .sknp x :=
  ⟨⟨_, rfl⟩, by decide⟩

/-- One instruction of each storing shape, at the ends of their ranges, and one of the register shape. -/
theorem witness_EachInstructionWritesOnlyItsTableRow :
    (∃ t, exec (.call 0xFFF) { State.reset with SP := 15 } = .next t) ∧
    (∃ t, exec (.storeRegs 15) (State.reset.setI 0xFFF) = .next t) ∧
    (∃ t, exec (.ldB 0) (State.reset.setI 0xFFE) = .next t) ∧ (∃ t, exec (.drw 0 1 15) (v01 63 31) = .next t) ∧
    (∃ t, exec (.loadRegs 15) State.reset = .next t) :=
  ⟨⟨_, rfl⟩, ⟨_, rfl⟩, ⟨_, rfl⟩, ⟨_, rfl⟩, ⟨_, rfl⟩⟩

/-- A full stack under `REPORT` and the last entry under `WRAP`, each with memory that is not the reset contents. -/
theorem witness_EveryStepKeepsTheInvariant :
    (Inv ({ State.reset with SP := 16 }.withFetchWord 16 0x2200) ∧
      after { State.reset with SP := 16 } 0x2200 (fun _ => true) = true) ∧
    (Inv ({ wrapped with SP := 15 }.withFetchWord 16 0x2200) ∧
      after { wrapped with SP := 15 } 0x2200 (fun _ => true) = true) :=
  ⟨⟨⟨by decide, by decide⟩, by decide⟩, ⟨by decide, by decide⟩, by decide⟩

theorem witness_EveryHostMoveKeepsTheInvariant : Inv { wrapped with SP := 15, M := [(0xFFF, 1)] } :=
  ⟨by decide, by decide⟩

/-- The first and the last font base, and the addresses next to the font. -/
theorem witness_ResetLeavesTheStatedValues :
    State.reset.byteAt 80 = 0 ∧
    (State.resetWith { defaultConfig with fontBase := 0x1B0 }).byteAt 0x1AF = 0 ∧
    (State.resetWith { defaultConfig with fontBase := 0x1B0 }).byteAt 0x1B0 = 0xF0 ∧
    (State.resetWith { defaultConfig with fontBase := 0x1B0 }).byteAt 0x1FF = 0x80 ∧
    (State.resetWith { defaultConfig with fontBase := 0x1B0 }).byteAt 0x200 = 0 := by decide

theorem witness_ConfigurationNeverChanges : ∃ t, step wrapped = .next t := ⟨_, rfl⟩

/-- The self-loops at 0x200 and at 0x0FFE, the last address that can hold one. -/
theorem witness_SelfLoopRepeatsWhileTheTimersRun :
    ∀ p ∈ [((0x200 : Word), 0x1200), (0x0FFE, 0x1FFE)],
      let s := (State.reset.setPc p.1).withFetchWord 16 p.2
      s.pc.toNat ≤ 0x0FFF ∧ s.fetchWord = 0x1000 ||| s.pc := by decide

/-- The longest image that is placed whole, the shortest that is not, and the last byte placed of it. -/
theorem witness_LoaderPlacesTheImage :
    (List.replicate 3584 (0xAA : Byte)).length ≤ 3584 ∧ 3584 < (List.replicate 3585 (0xAA : Byte)).length ∧
    State.reset.cfg.loadOversize = .reject ∧
    (State.resetWith { defaultConfig with loadOversize := .truncate }).cfg.loadOversize = .truncate ∧
    (List.replicate 3585 (0xAA : Byte))[3583]? = some 0xAA := by
  rw [List.length_replicate, List.length_replicate, List.getElem?_replicate]
  decide

theorem witness_KeypadPortSetsOneBit : State.reset.held 15 = false ∧ (14 : Reg) ≠ 15 := by decide

end Sys2Proof.Tests
end

section
/-! PROOFS. The register instructions that write a result and then a flag (spec/41_register_alu.md R83, R90). -/

namespace Sys2Proof

/-- The word that the four fields of R59 build, as the sum of their place values. -/
theorem wordXYN_eq_ofNat (f : Nibble) (x y : Reg) (n : Nibble) :
    wordXYN f x y n = BitVec.ofNat 16 (f.toNat * 0x1000 + x.val * 0x100 + y.val * 0x10 + n.toNat) := by
  rw [← wordXYN_toNat, BitVec.ofNat_toNat, BitVec.setWidth_eq]

theorem decodeWord_encode_addReg (x y : Reg) : decodeWord (encode (.addReg x y)) = .ok (.addReg x y) := by
  simp only [encode, decodeWord, decode8, famOf_wordXYN, nOf_wordXYN, xOf_wordXYN, yOf_wordXYN]

namespace Machine

/-- R83: a destination other than VF keeps its result when the flag is written. -/
theorem State.getV_setVThenFlag_result (s : State) (x : Reg) (r : AluResult) (h : x ≠ vf) :
    (s.setVThenFlag x r).getV x = r.value := by
  rw [State.getV_setVThenFlag, if_neg h, if_pos rfl]

/-- R83, R16: VF holds the flag, also when it is the destination. -/
@[simp] theorem State.getV_setVThenFlag_vf (s : State) (x : Reg) (r : AluResult) :
    (s.setVThenFlag x r).getV vf = flagByte r.flag := by
  rw [State.getV_setVThenFlag, if_pos rfl]

/-- The frame of every instruction that writes a result, then a flag, and goes on to the next word. -/
theorem State.onlyChanges_setVThenFlag_advance (s : State) (x : Reg) (r : AluResult) :
    OnlyChanges (· ∈ [.V x, .V 15, .pc]) s (s.setVThenFlag x r).advance := by
  intro p hp
  cases p with
  | V q =>
    have hx : q ≠ x := fun e => hp (by simp [e])
    have hvf : q ≠ vf := fun e => hp (by simp [e])
    calc (s.setVThenFlag x r).advance.getV q
      _ = (s.setVThenFlag x r).getV q := State.advance_getV _ _
      _ = s.getV q := by rw [State.getV_setVThenFlag, if_neg hvf, if_neg hx]
  | pc => exact absurd (by simp) hp
  | _ => exact rfl

/-- R90: the carry as the byte VF receives. -/
theorem flagByte_addCarry (a b : Byte) :
    flagByte (addCarry a b).flag = if a.toNat + b.toNat > 0xFF then 1 else 0 := by
  simp only [flagByte_eq_ite, addCarry, decide_eq_true_eq]

/-- Settles O21: the word is the encoder's; the values are those of `addCarry` through the shared write of a result
and its flag, whose order makes VF the carry also when x = 0xF. -/
theorem addWithCarryOut : Obligations.AddWithCarryOut := by
  intro x y s
  have hword : BitVec.ofNat 16 (0x8004 + 0x100 * x.val + 0x10 * y.val) = encode (.addReg x y) := by
    rw [encode, wordXYN_eq_ofNat]
    congr 1
    simp only [BitVec.reduceToNat]
    omega
  refine ⟨hword ▸ decodeWord_encode_addReg x y, _, rfl, fun hx => ?result, ?carry, rfl,
    s.onlyChanges_setVThenFlag_advance x (addCarry (s.getV x) (s.getV y))⟩
  case result =>
    calc ((s.setVThenFlag x (addCarry (s.getV x) (s.getV y))).getV x).toNat
      _ = (addCarry (s.getV x) (s.getV y)).value.toNat := by rw [State.getV_setVThenFlag_result _ _ _ hx]
      _ = ((s.getV x).toNat + (s.getV y).toNat) % 256 := by rw [addCarry_value, BitVec.toNat_add]
  case carry =>
    calc (s.setVThenFlag x (addCarry (s.getV x) (s.getV y))).getV vf
      _ = flagByte (addCarry (s.getV x) (s.getV y)).flag := State.getV_setVThenFlag_vf _ _ _
      _ = if (s.getV x).toNat + (s.getV y).toNat > 0xFF then 1 else 0 := flagByte_addCarry _ _

end Machine
end Sys2Proof
end

section
/-! PROOFS. Display clear (spec/43_display.md R105, R106). -/

namespace Sys2Proof.Machine

/-- The frame of an instruction that replaces the framebuffer through its write port (R105) and goes on to the next
word. -/
theorem State.onlyChanges_drawFrame_advance (s : State) (f : Framebuffer) :
    OnlyChanges (fun p => p = .RP ∨ p = .pc ∨ ∃ k, p = .cell k) s (s.drawFrame f).advance := by
  intro p hp
  cases p with
  | RP => exact absurd (.inl rfl) hp
  | pc => exact absurd (.inr (.inl rfl)) hp
  | cell k => exact absurd (.inr (.inr ⟨k, rfl⟩)) hp
  | _ => exact rfl

/-- Settles O32: CLS draws the blank frame, and a drawn frame sets RP whatever stood in the framebuffer before. -/
theorem clearDisplay : Obligations.ClearDisplay := by
  refine ⟨by decide, fun s => ⟨(s.drawFrame Framebuffer.blank).advance, rfl, fun k => ?cells, ?redraw, ?pc,
    s.onlyChanges_drawFrame_advance Framebuffer.blank⟩⟩
  case cells =>
    calc (s.drawFrame Framebuffer.blank).advance.cell k
      _ = Framebuffer.blank.cell k := by rw [State.advance_cell, State.drawFrame_cell]
      _ = false := Framebuffer.cell_blank k
  case redraw => rw [State.advance_RP, State.drawFrame_RP]
  case pc => rw [State.advance_pc, State.drawFrame_pc]

end Sys2Proof.Machine
end

section
/-! PROOFS. The redraw-pending flag (spec/70_reset_and_hazards.md R150): no meaning reads RP, so replacing RP before an
instruction and replacing it after give the same outcome, but where 00E0 and DXYN set it. -/

namespace Sys2Proof.Machine

/-- The machine with another value of RP. -/
def State.withRP (s : State) (b : Bool) : State := { s with RP := b }

/-- An outcome with a function applied to its next state. -/
def mapNext (f : State → State) (o : Host.Outcome State Fault Refusal) : Host.Outcome State Fault Refusal :=
  match o with
  | .next t => .next (f t)
  | .fault r => .fault r
  | .refused r => .refused r

/-- The instructions that use the framebuffer's write port, which sets RP (R105). -/
def setsRP (i : Instr) : Bool :=
  match i with
  | .cls => true
  | .drw _ _ _ => true
  | _ => false

@[simp] theorem mapNext_next (f : State → State) (t : State) : mapNext f (.next t) = .next (f t) := rfl

section
variable (s : State) (b : Bool)

@[simp] theorem State.withRP_RP : (s.withRP b).RP = b := rfl
@[simp] theorem State.withRP_self : s.withRP s.RP = s := rfl
@[simp] theorem State.withRP_clearOutputs : (s.withRP b).clearOutputs = s.clearOutputs.withRP b := rfl
@[simp] theorem State.withRP_tick : (s.withRP b).tick = s.tick.withRP b := rfl
@[simp] theorem State.withRP_lowestHeld : (s.withRP b).lowestHeld = s.lowestHeld := rfl

theorem State.withRP_skipIf (c : Bool) : (s.withRP b).skipIf c = (s.skipIf c).withRP b := by
  cases c <;> rfl

theorem State.withRP_blockIncrement (i : Word) (x : Reg) :
    (s.withRP b).blockIncrement i x = (s.blockIncrement i x).withRP b := by
  rw [State.blockIncrement, State.blockIncrement, apply_ite (State.withRP · b)]
  rfl

theorem State.withRP_rndTaken : (s.withRP b).rndTaken = s.rndTaken.withRP b := by
  obtain ⟨_, _, rndIn, _, _, _⟩ := s
  cases rndIn <;> rfl

theorem State.withRP_storeBytes (i : Word) (k : Nat) (bs : List Byte) :
    (s.withRP b).storeBytes i k bs = (s.storeBytes i k bs).withRP b := by
  induction bs generalizing s k with
  | nil => rfl
  | cons v _ ih => exact ih (s.memWrite (i.toNat + k) v) (k + 1)

theorem State.withRP_loadInto (i : Word) (rs : List Reg) :
    (s.withRP b).loadInto i rs = (s.loadInto i rs).withRP b := by
  induction rs generalizing s with
  | nil => rfl
  | cons r _ ih => exact ih (s.setV r (s.memRead (i.toNat + r.val)))

/-- Every instruction does the same whatever RP holds; RP after it is 1 for 00E0 and DXYN and otherwise what it was. -/
theorem exec_withRP (i : Instr) : exec i (s.withRP b) = mapNext (·.withRP (setsRP i || b)) (exec i s) := by
  cases i with
  | call =>
    rw [exec, execCall, exec, execCall, apply_ite (mapNext _)]
    rfl
  | ret =>
    rw [exec, execRet, exec, execRet, apply_ite (mapNext _)]
    rfl
  | seImm | sneImm | seReg | sneReg | skp | sknp => exact congrArg Host.Outcome.next (s.withRP_skipIf b _)
  | rnd =>
    rw [exec, execRnd, State.withRP_rndTaken]
    rfl
  | ldVxK =>
    rw [exec, execLdVxK, State.withRP_lowestHeld, exec, execLdVxK]
    cases s.lowestHeld <;> rfl
  | ldB =>
    rw [exec, execLdB, State.withRP_storeBytes]
    rfl
  | storeRegs =>
    rw [exec, execStoreRegs, State.withRP_storeBytes, State.withRP_blockIncrement]
    rfl
  | loadRegs =>
    rw [exec, execLoadRegs, State.withRP_loadInto, State.withRP_blockIncrement]
    rfl
  | _ => rfl

end

/-- A state that is unchanged by replacing RP has the replacing value. -/
theorem State.RP_eq_of_next_eq {t : State} {b : Bool}
    (h : (.next t : Host.Outcome State Fault Refusal) = .next (t.withRP b)) : t.RP = b :=
  (congrArg (·.RP) (Host.Outcome.next.inj h)).trans (t.withRP_RP b)

/-- RP after an instruction: `exec_withRP` at the value RP already has. -/
theorem exec_RP {i : Instr} {s t : State} (h : exec i s = .next t) : t.RP = (setsRP i || s.RP) := by
  have hsame := exec_withRP s s.RP i
  rw [State.withRP_self, h] at hsame
  exact State.RP_eq_of_next_eq hsame

/-- A step does the same for every value of RP, and it sets RP for all of them or keeps each. -/
theorem step_withRP {s t : State} (h : step s = .next t) :
    ∃ sets : Bool, ∀ b, step (s.withRP b) = .next (t.withRP (sets || b)) := by
  obtain ⟨e, hdec, rfl⟩ | ⟨i, u, hdec, hexec, rfl⟩ := step_cases h
  · exact ⟨false, fun b => step_of_unrecognized (s := s.withRP b) hdec⟩
  · refine ⟨setsRP i, fun b => ?_⟩
    simp only [step_of_recognized (s := s.withRP b) hdec, State.withRP_clearOutputs, exec_withRP, hexec, mapNext_next,
      State.withRP_tick]

/-- Settles O36: RP occurs in a step only where `setsRP` puts it, so a step's outcome is fixed but for RP, and RP goes
down by the host's clear alone. -/
theorem redrawFlagIsAHandshakeOnly : Obligations.RedrawFlagIsAHandshakeOnly := by
  refine ⟨State.clearRP_RP, fun x y n s t h => ?draws, fun s t h hs => ?kept, fun s t b h => ?unread⟩
  case draws => exact h.elim exec_RP exec_RP
  case kept =>
    obtain ⟨sets, hstep⟩ := step_withRP h
    have hsame : step s = .next (t.withRP (sets || s.RP)) := hstep s.RP
    rw [State.RP_eq_of_next_eq (h.symm.trans hsame), hs, Bool.or_true]
  case unread =>
    obtain ⟨sets, hstep⟩ := step_withRP h
    exact ⟨sets || b, hstep b⟩

end Sys2Proof.Machine
end

section
/-! PROOFS. The decoder and the encoder against each other and against the opcode map (spec/30_encoding.md R59 to
R67). -/

namespace Sys2Proof

/-! Decoding an encoded instruction. -/

theorem decode0_wordNNN {nnn : Addr12} (h : WellFormed (.sys nnn) = true) : decode0 (wordNNN 0 nnn) = .sys nnn := by
  simp only [WellFormed, Bool.and_eq_true, bne_iff_ne] at h
  have hcls : wordNNN 0 nnn ≠ 0x00E0#16 := fun e => h.1 ((nnnOf_wordNNN 0 nnn).symm.trans (congrArg nnnOf e))
  have hret : wordNNN 0 nnn ≠ 0x00EE#16 := fun e => h.2 ((nnnOf_wordNNN 0 nnn).symm.trans (congrArg nnnOf e))
  rw [decode0, if_neg hcls, if_neg hret, nnnOf_wordNNN]

/-- The decode tree takes the branch of the family, and then of `n` or `nn`, that the encoder wrote. -/
theorem decodeWord_encode {i : Instr} (h : WellFormed i = true) : decodeWord (encode i) = .ok i := by
  cases i with
  | sys => simpa [encode, decodeWord] using decode0_wordNNN h
  | cls | ret => decide
  | jp | call | ldI | jpV0 => simp [encode, decodeWord]
  | seImm | sneImm | ldImm | addImm | rnd => simp [encode, decodeWord]
  | seReg | sneReg | drw => simp [encode, decodeWord]
  | ldReg | orReg | andReg | xorReg | addReg | subReg | shr | subnReg | shl => simp [encode, decodeWord, decode8]
  | skp | sknp => simp [encode, decodeWord, decodeE]
  | ldVxDT | ldVxK | ldDTVx | ldSTVx | addI | ldF | ldB | storeRegs | loadRegs => simp [encode, decodeWord, decodeF]

/-- Settles O2: the two bytes of a word are put together again, and the decode tree reads back what the encoder
wrote. -/
theorem decodeUndoesEncode : Obligations.DecodeUndoesEncode := by
  intro i rest h
  have hbytes : encodeBytes i ++ rest = hiByte (encode i) :: loByte (encode i) :: rest := rfl
  rw [hbytes, decode_cons_cons, wordOfBytes_halves, decodeWord_encode h]

/-! Encoding a decoded word. -/

section
variable {w : Word} {f : Nibble}

theorem wordNNN_of_famOf (hf : famOf w = f) : wordNNN f (nnnOf w) = w := hf ▸ wordNNN_fields w
theorem wordXNN_of_famOf (hf : famOf w = f) : wordXNN f (xOf w) (nnOf w) = w := hf ▸ wordXNN_fields w
theorem wordXYN_of_famOf (hf : famOf w = f) : wordXYN f (xOf w) (yOf w) (nOf w) = w := hf ▸ wordXYN_fields w
theorem wordXNN_of_famOf_nnOf {nn : Byte} (hf : famOf w = f) (hn : nnOf w = nn) : wordXNN f (xOf w) nn = w :=
  hn ▸ wordXNN_of_famOf hf
theorem wordXYN_of_famOf_nOf {n : Nibble} (hf : famOf w = f) (hn : nOf w = n) : wordXYN f (xOf w) (yOf w) n = w :=
  hn ▸ wordXYN_of_famOf hf
end

/-- An instruction stands for a word: it is well-formed and the word is its encoding. -/
def StandsFor (i : Instr) (w : Word) : Prop := WellFormed i = true ∧ encode i = w

section
variable {w : Word} {i : Instr}

/-- R62: what is neither 00E0 nor 00EE keeps its address field, which is then neither 0E0 nor 0EE. -/
theorem decode0_standsFor (hf : famOf w = 0x0) : StandsFor (decode0 w) w := by
  have hword := wordNNN_of_famOf hf
  unfold decode0
  split_ifs with hcls hret
  · exact ⟨rfl, hcls.symm⟩
  · exact ⟨rfl, hret.symm⟩
  · have h1 : nnnOf w ≠ 0x0E0#12 := fun e => hcls (by rw [← hword, e]; rfl)
    have h2 : nnnOf w ≠ 0x0EE#12 := fun e => hret (by rw [← hword, e]; rfl)
    exact ⟨by simp [WellFormed, h1, h2], hword⟩

theorem decode8_standsFor (hf : famOf w = 0x8) (h : decode8 w = .ok i) : StandsFor i w := by
  unfold decode8 at h
  split at h
  case h_10 => exact nomatch h
  all_goals
    cases h
    exact ⟨rfl, wordXYN_of_famOf_nOf hf ‹_›⟩

theorem decodeE_standsFor (hf : famOf w = 0xE) (h : decodeE w = .ok i) : StandsFor i w := by
  unfold decodeE at h
  split at h
  case h_3 => exact nomatch h
  all_goals
    cases h
    exact ⟨rfl, wordXNN_of_famOf_nnOf hf ‹_›⟩

theorem decodeF_standsFor (hf : famOf w = 0xF) (h : decodeF w = .ok i) : StandsFor i w := by
  unfold decodeF at h
  split at h
  case h_10 => exact nomatch h
  all_goals
    cases h
    exact ⟨rfl, wordXNN_of_famOf_nnOf hf ‹_›⟩

/-- The last branch of the decode tree is family F. -/
theorem eq_F_of_ne (f : Nibble) : f ≠ 0x0 → f ≠ 0x1 → f ≠ 0x2 → f ≠ 0x3 → f ≠ 0x4 → f ≠ 0x5 → f ≠ 0x6 → f ≠ 0x7 →
    f ≠ 0x8 → f ≠ 0x9 → f ≠ 0xA → f ≠ 0xB → f ≠ 0xC → f ≠ 0xD → f ≠ 0xE → f = 0xF := by
  bv_omega

theorem decodeWord_standsFor (h : decodeWord w = .ok i) : StandsFor i w := by
  unfold decodeWord at h
  split at h
  case h_1 hf => cases h; exact decode0_standsFor hf
  case h_9 hf => exact decode8_standsFor hf h
  case h_15 hf => exact decodeE_standsFor hf h
  case h_16 => exact decodeF_standsFor (by apply eq_F_of_ne <;> assumption) h
  case h_2 hf | h_3 hf | h_11 hf | h_12 hf => cases h; exact ⟨rfl, wordNNN_of_famOf hf⟩
  case h_4 hf | h_5 hf | h_7 hf | h_8 hf | h_13 hf => cases h; exact ⟨rfl, wordXNN_of_famOf hf⟩
  case h_6 hf | h_10 hf | h_14 hf => cases h; exact ⟨rfl, wordXYN_of_famOf hf⟩

end

/-- Settles O3: in each branch of the decode tree the fields it read, ignored ones included, build the word again. -/
theorem encodeUndoesDecode : Obligations.EncodeUndoesDecode := fun _ _ h => decodeWord_standsFor h

/-! The words that are no instruction (R67). -/

theorem decode8_error_iff (w : Word) :
    (∃ e, decode8 w = .error e) ↔ nOf w ∉ [0x0#4, 0x1, 0x2, 0x3, 0x4, 0x5, 0x6, 0x7, 0xE] := by
  unfold decode8
  split <;> simp_all

theorem decodeE_error_iff (w : Word) : (∃ e, decodeE w = .error e) ↔ nnOf w ∉ [0x9E#8, 0xA1] := by
  unfold decodeE
  split <;> simp_all

theorem decodeF_error_iff (w : Word) :
    (∃ e, decodeF w = .error e) ↔ nnOf w ∉ [0x07#8, 0x0A, 0x15, 0x18, 0x1E, 0x29, 0x33, 0x55, 0x65] := by
  unfold decodeF
  split <;> simp_all

/-- R67 in terms of the fields of R59: only the families 8, E and F have words that are no instruction. -/
theorem decodeWord_error_iff (w : Word) :
    (∃ e, decodeWord w = .error e) ↔
      (famOf w = 0x8#4 ∧ nOf w ∉ [0x0#4, 0x1, 0x2, 0x3, 0x4, 0x5, 0x6, 0x7, 0xE]) ∨
      (famOf w = 0xE#4 ∧ nnOf w ∉ [0x9E#8, 0xA1]) ∨
      (famOf w = 0xF#4 ∧ nnOf w ∉ [0x07#8, 0x0A, 0x15, 0x18, 0x1E, 0x29, 0x33, 0x55, 0x65]) := by
  rw [← decode8_error_iff, ← decodeE_error_iff, ← decodeF_error_iff]
  unfold decodeWord
  split
  case h_16 =>
    have hf : famOf w = 0xF#4 := by apply eq_F_of_ne <;> assumption
    simp [hf]
  all_goals simp [*]

theorem famOf_eq_iff (w : Word) (f : Nibble) : famOf w = f ↔ w.toNat / 0x1000 = f.toNat := by
  rw [← BitVec.toNat_inj, famOf_toNat, Nat.mod_eq_of_lt (by omega)]

/-- The sub-opcodes of family 8 that R63 does not list, as the numbers of R67. -/
theorem nOf_unlisted_iff (w : Word) :
    nOf w ∉ [0x0#4, 0x1, 0x2, 0x3, 0x4, 0x5, 0x6, 0x7, 0xE] ↔ w.toNat % 0x10 ∈ [8, 9, 0xA, 0xB, 0xC, 0xD, 0xF] := by
  rw [← nOf_toNat]
  generalize nOf w = n
  revert n
  decide

theorem nnOf_mem_iff (w : Word) (l : List Byte) : nnOf w ∈ l ↔ w.toNat % 0x100 ∈ l.map BitVec.toNat := by
  rw [← nnOf_toNat, List.mem_map_of_injective BitVec.toNat_injective]

/-- Settles O5: the three failing branches of the decode tree, with each field written as a part of the number. -/
theorem unrecognizedWordsAreTheThreeSets : Obligations.UnrecognizedWordsAreTheThreeSets := by
  intro w
  rw [decodeWord_error_iff, nOf_unlisted_iff, nnOf_mem_iff, nnOf_mem_iff, famOf_eq_iff, famOf_eq_iff, famOf_eq_iff]
  exact Iff.rfl

/-! The opcode map of R66. -/

theorem encodesInItsRow (i : Instr) : Laws.EncodesInItsRow.Statement i := by
  cases i with
  | sys => exact Laws.EncodesInItsRow.sys _
  | cls => exact Laws.EncodesInItsRow.cls
  | ret => exact Laws.EncodesInItsRow.ret
  | jp => exact Laws.EncodesInItsRow.jp _
  | call => exact Laws.EncodesInItsRow.call _
  | seImm => exact Laws.EncodesInItsRow.seImm _ _
  | sneImm => exact Laws.EncodesInItsRow.sneImm _ _
  | seReg => exact Laws.EncodesInItsRow.seReg _ _ _
  | ldImm => exact Laws.EncodesInItsRow.ldImm _ _
  | addImm => exact Laws.EncodesInItsRow.addImm _ _
  | ldReg => exact Laws.EncodesInItsRow.ldReg _ _
  | orReg => exact Laws.EncodesInItsRow.orReg _ _
  | andReg => exact Laws.EncodesInItsRow.andReg _ _
  | xorReg => exact Laws.EncodesInItsRow.xorReg _ _
  | addReg => exact Laws.EncodesInItsRow.addReg _ _
  | subReg => exact Laws.EncodesInItsRow.subReg _ _
  | shr => exact Laws.EncodesInItsRow.shr _ _
  | subnReg => exact Laws.EncodesInItsRow.subnReg _ _
  | shl => exact Laws.EncodesInItsRow.shl _ _
  | sneReg => exact Laws.EncodesInItsRow.sneReg _ _ _
  | ldI => exact Laws.EncodesInItsRow.ldI _
  | jpV0 => exact Laws.EncodesInItsRow.jpV0 _
  | rnd => exact Laws.EncodesInItsRow.rnd _ _
  | drw => exact Laws.EncodesInItsRow.drw _ _ _
  | skp => exact Laws.EncodesInItsRow.skp _
  | sknp => exact Laws.EncodesInItsRow.sknp _
  | ldVxDT => exact Laws.EncodesInItsRow.ldVxDT _
  | ldVxK => exact Laws.EncodesInItsRow.ldVxK _
  | ldDTVx => exact Laws.EncodesInItsRow.ldDTVx _
  | ldSTVx => exact Laws.EncodesInItsRow.ldSTVx _
  | addI => exact Laws.EncodesInItsRow.addI _
  | ldF => exact Laws.EncodesInItsRow.ldF _
  | ldB => exact Laws.EncodesInItsRow.ldB _
  | storeRegs => exact Laws.EncodesInItsRow.storeRegs _
  | loadRegs => exact Laws.EncodesInItsRow.loadRegs _

theorem OpcodeRow.and_mask_of_matches {r : OpcodeRow} {w : Word} (h : r.matches w = true) :
    w &&& r.mask = r.pattern := by
  simpa [OpcodeRow.matches] using h

/-- Two rows that one word matches agree on the bits that both masks cover. -/
theorem OpcodeRow.patterns_agree {r r' : OpcodeRow} {w : Word} (h : r.matches w = true) (h' : r'.matches w = true) :
    r.pattern &&& r'.mask = r'.pattern &&& r.mask := by
  rw [← and_mask_of_matches h, ← and_mask_of_matches h', BitVec.and_assoc, BitVec.and_assoc,
    BitVec.and_comm r.mask]

/-- The only rows of R66 that agree on their common bits are SYS and the two full-mask rows. -/
theorem opcodeMap_overlaps : ∀ r ∈ opcodeMap, ∀ r' ∈ opcodeMap, r.pattern &&& r'.mask = r'.pattern &&& r.mask →
    r' = r ∨ (r.mask = 0xFFFF ∧ r' = ⟨0xF000, 0x0000⟩) ∨
      (r = ⟨0xF000, 0x0000⟩ ∧ r' ∈ [⟨0xFFFF, 0x00E0⟩, ⟨0xFFFF, 0x00EE⟩]) := by
  decide

theorem famOf_and (a b : Word) : famOf (a &&& b) = famOf a &&& famOf b := BitVec.extractLsb'_and
theorem nOf_and (a b : Word) : nOf (a &&& b) = nOf a &&& nOf b := BitVec.extractLsb'_and
theorem nnOf_and (a b : Word) : nnOf (a &&& b) = nnOf a &&& nnOf b := BitVec.extractLsb'_and

section
variable {r : OpcodeRow} {w : Word}

theorem OpcodeRow.famOf_pattern (h : r.matches w = true) (hm : famOf r.mask = BitVec.allOnes 4) :
    famOf r.pattern = famOf w := by
  rw [← and_mask_of_matches h, famOf_and, hm, BitVec.and_allOnes]

theorem OpcodeRow.nOf_pattern (h : r.matches w = true) (hm : nOf r.mask = BitVec.allOnes 4) :
    nOf r.pattern = nOf w := by
  rw [← and_mask_of_matches h, nOf_and, hm, BitVec.and_allOnes]

theorem OpcodeRow.nnOf_pattern (h : r.matches w = true) (hm : nnOf r.mask = BitVec.allOnes 8) :
    nnOf r.pattern = nnOf w := by
  rw [← and_mask_of_matches h, nnOf_and, hm, BitVec.and_allOnes]

end

/-! What the rows of each family look like in R66: all fix the family, those of family 8 fix a listed `n`, and those
of the families E and F a listed `nn`. -/

theorem opcodeMap_fixes_family : ∀ r ∈ opcodeMap, famOf r.mask = BitVec.allOnes 4 := by decide

theorem opcodeMap_family_8 : ∀ r ∈ opcodeMap, famOf r.pattern = 0x8#4 → nOf r.mask = BitVec.allOnes 4 ∧
    nOf r.pattern ∈ [0x0#4, 0x1, 0x2, 0x3, 0x4, 0x5, 0x6, 0x7, 0xE] := by decide

theorem opcodeMap_family_E : ∀ r ∈ opcodeMap, famOf r.pattern = 0xE#4 → nnOf r.mask = BitVec.allOnes 8 ∧
    nnOf r.pattern ∈ [0x9E#8, 0xA1] := by decide

theorem opcodeMap_family_F : ∀ r ∈ opcodeMap, famOf r.pattern = 0xF#4 → nnOf r.mask = BitVec.allOnes 8 ∧
    nnOf r.pattern ∈ [0x07#8, 0x0A, 0x15, 0x18, 0x1E, 0x29, 0x33, 0x55, 0x65] := by decide

/-- A word that a row matches is recognized: its family, `n` and `nn` are those of the row. -/
theorem decodeWord_of_matches {r : OpcodeRow} {w : Word} (hr : r ∈ opcodeMap) (h : r.matches w = true) :
    ¬ ∃ e, decodeWord w = .error e := by
  have hfam := OpcodeRow.famOf_pattern h (opcodeMap_fixes_family r hr)
  rw [decodeWord_error_iff, ← hfam]
  rintro (⟨hf, hn⟩ | ⟨hf, hn⟩ | ⟨hf, hn⟩)
  · obtain ⟨hmask, hlisted⟩ := opcodeMap_family_8 r hr hf
    exact hn (OpcodeRow.nOf_pattern h hmask ▸ hlisted)
  · obtain ⟨hmask, hlisted⟩ := opcodeMap_family_E r hr hf
    exact hn (OpcodeRow.nnOf_pattern h hmask ▸ hlisted)
  · obtain ⟨hmask, hlisted⟩ := opcodeMap_family_F r hr hf
    exact hn (OpcodeRow.nnOf_pattern h hmask ▸ hlisted)

/-- A full-mask row matches one word. -/
theorem OpcodeRow.eq_pattern_of_full {p w : Word} (h : (OpcodeRow.mk 0xFFFF p).matches w = true) : w = p := by
  have hand : w &&& BitVec.allOnes 16 = p := and_mask_of_matches h
  rwa [BitVec.and_allOnes] at hand

/-- R62: a word of the SYS row that decodes to SYS is matched by no full-mask row. -/
theorem full_row_of_sys {w : Word} {i : Instr} (hdec : decodeWord w = .ok i) (hrow : rowOf i = ⟨0xF000, 0x0000⟩)
    {r : OpcodeRow} (hr : r ∈ [⟨0xFFFF, 0x00E0⟩, ⟨0xFFFF, 0x00EE⟩]) : r.matches w = false := by
  rw [Bool.eq_false_iff]
  intro h
  simp only [List.mem_cons, List.not_mem_nil, or_false] at hr
  obtain rfl | rfl := hr
  · obtain rfl := OpcodeRow.eq_pattern_of_full h
    obtain rfl : Instr.cls = i := Except.ok.inj hdec
    exact absurd hrow (by decide)
  · obtain rfl := OpcodeRow.eq_pattern_of_full h
    obtain rfl : Instr.ret = i := Except.ok.inj hdec
    exact absurd hrow (by decide)

/-- Settles O4: a recognized word is its instruction's encoding, so it matches that instruction's row; a second row
must overlap with it; and a row that matches makes a word recognized. -/
theorem decodeTreeAgreesWithOpcodeMap : Obligations.DecodeTreeAgreesWithOpcodeMap := by
  refine fun w => ⟨fun i hdec => ?recognized, fun e herr r hr => ?unrecognized⟩
  case recognized =>
    obtain ⟨hrow, hmatch⟩ := encodesInItsRow i
    rw [(encodeUndoesDecode w i hdec).2] at hmatch
    refine ⟨hrow, hmatch, fun r hr hrm hne => ?_⟩
    obtain heq | hover | ⟨hsys, hfull⟩ :=
      opcodeMap_overlaps _ hrow r hr (OpcodeRow.patterns_agree hmatch hrm)
    · exact absurd heq hne
    · exact hover
    · exact absurd hrm (Bool.eq_false_iff.mp (full_row_of_sys hdec hsys hfull))
  case unrecognized => exact Bool.eq_false_iff.mpr fun h => decodeWord_of_matches hr h ⟨e, herr⟩

/-- Settles O1: each word is written out, and the decode tree evaluates on it. -/
theorem specWordsDecodeToTheirInstructions : Obligations.SpecWordsDecodeToTheirInstructions := by
  unfold Obligations.SpecWordsDecodeToTheirInstructions
  decide

end Sys2Proof
end

section
/-! PROOFS. What an instruction changes: one frame lemma for each shared operation, and the read and write table of
spec/10_state.md put together from them. -/

namespace Sys2Proof.Machine

/-! How frames are put together. -/

theorem SamePart.trans {p : Part} {s t u : State} (h : SamePart p s t) (h' : SamePart p t u) : SamePart p s u := by
  cases p <;> exact Eq.trans h' h

theorem OnlyChanges.refl (touched : Part → Prop) (s : State) : OnlyChanges touched s s := by
  intro p _
  cases p <;> rfl

section
variable {A B : Part → Prop} {s t u : State}

theorem OnlyChanges.mono (h : OnlyChanges A s t) (hAB : ∀ p, A p → B p) : OnlyChanges B s t :=
  fun p hp => h p (mt (hAB p) hp)

theorem OnlyChanges.trans (h : OnlyChanges A s t) (h' : OnlyChanges B t u) :
    OnlyChanges (fun p => A p ∨ B p) s u :=
  fun p hp => (h p (mt .inl hp)).trans (h' p (mt .inr hp))

end

/-! The frame of each shared operation. -/

section
variable (s : State)

theorem State.onlyChanges_setV (r : Reg) (v : Byte) : OnlyChanges (· = .V r) s (s.setV r v) := by
  intro p hp
  cases p with
  | V q => exact s.getV_setV_ne v fun e => hp (congrArg Part.V e)
  | _ => rfl

theorem State.onlyChanges_setI (v : Word) : OnlyChanges (· = .I) s (s.setI v) := by
  intro p hp
  cases p with
  | I => exact absurd rfl hp
  | _ => rfl

theorem State.onlyChanges_setPc (v : Word) : OnlyChanges (· = .pc) s (s.setPc v) := by
  intro p hp
  cases p with
  | pc => exact absurd rfl hp
  | _ => rfl

theorem State.onlyChanges_setDT (v : Byte) : OnlyChanges (· = .DT) s (s.setDT v) := by
  intro p hp
  cases p with
  | DT => exact absurd rfl hp
  | _ => rfl

theorem State.onlyChanges_setST (v : Byte) : OnlyChanges (· = .ST) s (s.setST v) := by
  intro p hp
  cases p with
  | ST => exact absurd rfl hp
  | _ => rfl

theorem State.onlyChanges_skipIf (c : Bool) : OnlyChanges (· = .pc) s (s.skipIf c) := by
  cases c <;> exact s.onlyChanges_setPc _

theorem State.onlyChanges_storeBytes (i : Word) (bs : List Byte) :
    OnlyChanges (fun p => ∃ k, k < bs.length ∧ p = .byte (clampA (i.toNat + k))) s (s.storeBytes i 0 bs) := by
  intro p hp
  cases p with
  | byte a =>
    refine s.byteAt_storeBytes_outside i 0 bs a fun k hk e => hp ⟨k, hk, ?_⟩
    rw [e, Nat.add_zero]
  | _ => rw [s.storeBytes_fields]; rfl

theorem State.onlyChanges_loadInto (i : Word) (rs : List Reg) :
    OnlyChanges (fun p => ∃ k ∈ rs, p = .V k) s (s.loadInto i rs) := by
  intro p hp
  cases p with
  | V q => exact (s.getV_loadInto i rs q).trans (if_neg fun hq => hp ⟨q, hq, rfl⟩)
  | _ => rw [s.loadInto_fields]; rfl

theorem State.onlyChanges_blockIncrement (i : Word) (x : Reg) :
    OnlyChanges (fun p => p = .I ∧ s.cfg.blockIncrementsI = true) s (s.blockIncrement i x) := by
  unfold State.blockIncrement
  split_ifs with hinc
  · exact (s.onlyChanges_setI _).mono fun p hp => ⟨hp, hinc⟩
  · exact .refl _ s

theorem State.onlyChanges_push (v : Word) :
    OnlyChanges (fun p => p = .SP ∨ p = .stack ⟨s.SP.val % 16, Nat.mod_lt _ (Nat.zero_lt_succ 15)⟩) s (s.push v) := by
  intro p hp
  cases p with
  | SP => exact absurd (.inl rfl) hp
  | stack j =>
    refine (s.stackAt_push v j.val).trans (if_neg fun e => hp (.inr (congrArg Part.stack (Fin.ext ?_))))
    rwa [Nat.mod_eq_of_lt j.isLt] at e
  | _ => rfl

theorem State.onlyChanges_pop : OnlyChanges (· = .SP) s s.pop := by
  intro p hp
  cases p with
  | SP => exact absurd rfl hp
  | _ => rfl

theorem State.onlyChanges_drawFrame (f : Framebuffer) :
    OnlyChanges (fun p => p = .RP ∨ ∃ k, f.cell k ≠ s.cell k ∧ p = .cell k) s (s.drawFrame f) := by
  intro p hp
  cases p with
  | RP => exact absurd (.inl rfl) hp
  | cell k => exact not_not.mp fun hk => hp (.inr ⟨k, hk, rfl⟩)
  | _ => rfl

theorem State.onlyChanges_rndTaken : OnlyChanges (fun p => p = .rndIn ∨ p = .draws) s s.rndTaken := by
  intro p hp
  cases p with
  | rndIn => exact absurd (.inl rfl) hp
  | draws => exact absurd (.inr rfl) hp
  | _ => simp [SamePart]

theorem State.onlyChanges_raise (k : ReportKind) (w : Word) : OnlyChanges (· = .report) s (s.raise k w) := by
  intro p hp
  cases p with
  | report => exact absurd rfl hp
  | _ => rfl

theorem State.onlyChanges_clearOutputs : OnlyChanges (· ∈ [.report, .beep]) s s.clearOutputs := by
  intro p hp
  cases p with
  | report | beep => exact absurd (by simp) hp
  | _ => rfl

theorem State.onlyChanges_tick : OnlyChanges (· ∈ [.DT, .ST, .beep]) s s.tick := by
  intro p hp
  cases p with
  | DT | ST | beep => exact absurd (by simp) hp
  | _ => rfl

end

/-- The end of most meanings: on to the next word. -/
theorem OnlyChanges.advance {A : Part → Prop} {s t : State} (h : OnlyChanges A s t) :
    OnlyChanges (fun p => p = .pc ∨ A p) s t.advance :=
  (h.trans (t.onlyChanges_setPc _)).mono fun _ => Or.symm

theorem State.onlyChanges_reportAndAdvance (s : State) (k : ReportKind) (w : Word) :
    OnlyChanges (fun p => p = .pc ∨ p = .report) s (s.reportAndAdvance k w) :=
  (s.onlyChanges_raise k w).advance

end Sys2Proof.Machine
end

section
/-! PROOFS. The cells of a sprite (spec/43_display.md R107 to R110): the model's list of cells is that of the claims,
and what its toggles do. -/

namespace Sys2Proof.Machine

theorem map_val_spriteCells (s : State) (x0 y0 : Byte) (n : Nibble) :
    (s.spriteCells x0 y0 n).map Fin.val = spriteToggles s x0.toNat y0.toNat n.toNat := by
  simp only [State.spriteCells, spriteToggles, List.map_flatMap, rowCells, List.map_map]
  rfl

theorem count_spriteToggles (s : State) (x0 y0 : Byte) (n : Nibble) (k : Cell) :
    (spriteToggles s x0.toNat y0.toNat n.toNat).count k.val = (s.spriteCells x0 y0 n).count k := by
  rw [← map_val_spriteCells, List.count_map_of_injective _ _ Fin.val_injective]

/-- A collision said of cells is one said of their numbers. -/
theorem togglesCollide_map_val (s : State) (ks : List Cell) :
    TogglesCollide s (ks.map Fin.val) ↔
      ∃ before k after, ks = before ++ k :: after ∧ (s.cell k ^^ decide (before.count k % 2 = 1)) = true := by
  have hcount (before : List Cell) (k : Cell) : (before.map Fin.val).count k.val = before.count k :=
    List.count_map_of_injective _ _ Fin.val_injective _
  constructor
  · rintro ⟨before, k, after, hsplit, hfound⟩
    obtain ⟨before, rest, rfl, rfl, hrest⟩ := List.map_eq_append_iff.mp hsplit
    obtain ⟨k', after, rfl, hk, rfl⟩ := List.map_eq_cons_iff.mp hrest
    obtain rfl := Fin.val_injective hk
    exact ⟨before, k', after, rfl, by rwa [hcount] at hfound⟩
  · rintro ⟨before, k, after, rfl, hfound⟩
    exact ⟨before.map Fin.val, k, after.map Fin.val, by rw [List.map_append, List.map_cons], by rwa [hcount]⟩

/-- The framebuffer and the collision flag that `DRW` with these operands gives. -/
def State.drawn (s : State) (x0 y0 : Byte) (n : Nibble) : Framebuffer × Bool :=
  toggleCells s.FB false (s.spriteCells x0 y0 n)

section
variable (s : State)

theorem exec_drw (x y : Reg) (n : Nibble) :
    exec (.drw x y n) s =
      .next ((s.drawFrame (s.drawn (s.getV x) (s.getV y) n).1).setV vf
        (flagByte (s.drawn (s.getV x) (s.getV y) n).2)).advance := rfl

theorem State.cell_drawn (x0 y0 : Byte) (n : Nibble) (k : Cell) :
    (s.drawn x0 y0 n).1.cell k =
      (s.cell k ^^ decide ((spriteToggles s x0.toNat y0.toNat n.toNat).count k.val % 2 = 1)) := by
  rw [State.drawn, cell_toggleCells, count_spriteToggles]
  rfl

theorem State.mem_toggles_of_cell_drawn_ne {x0 y0 : Byte} {n : Nibble} {k : Cell}
    (h : (s.drawn x0 y0 n).1.cell k ≠ s.cell k) : k.val ∈ spriteToggles s x0.toNat y0.toNat n.toNat := by
  by_contra hk
  rw [State.cell_drawn, List.count_eq_zero_of_not_mem hk] at h
  simp at h

theorem State.hit_drawn (x0 y0 : Byte) (n : Nibble) :
    (s.drawn x0 y0 n).2 = true ↔ TogglesCollide s (spriteToggles s x0.toNat y0.toNat n.toNat) := by
  rw [← map_val_spriteCells, togglesCollide_map_val, State.drawn, hit_toggleCells]
  simp only [Bool.false_eq_true, false_or]
  rfl

end

end Sys2Proof.Machine
end

section
/-! PROOFS. What each instruction answers, said once: a next state, and the frame of the read and write table of
spec/10_state.md. -/

namespace Sys2Proof.Machine

section
variable {s : State}

/-! The meanings that branch, one equation per branch. -/

theorem exec_call_of_full (nnn : Addr12) (h : s.cfg.stackPolicy = .report ∧ s.SP.val = 16) :
    exec (.call nnn) s = .next (s.reportAndAdvance .stackOverflow (encode (.call nnn))) :=
  if_pos (s.stackFull_iff.mpr h)

theorem exec_call_of_not_full (nnn : Addr12) (h : ¬ (s.cfg.stackPolicy = .report ∧ s.SP.val = 16)) :
    exec (.call nnn) s = .next ((s.push s.pc).setPc (zext16 nnn)) :=
  if_neg (mt s.stackFull_iff.mp h)

theorem exec_ret_of_empty (h : s.cfg.stackPolicy = .report ∧ s.SP.val = 0) :
    exec .ret s = .next (s.reportAndAdvance .stackUnderflow (encode .ret)) :=
  if_pos (s.stackEmpty_iff.mpr h)

theorem exec_ret_of_not_empty (h : ¬ (s.cfg.stackPolicy = .report ∧ s.SP.val = 0)) :
    exec .ret s = .next (s.pop.setPc (s.popped + 2)) :=
  if_neg (mt s.stackEmpty_iff.mp h)

theorem exec_ldVxK_of_none (x : Reg) (h : s.lowestHeld = none) : exec (.ldVxK x) s = .next s := by
  rw [exec, execLdVxK, h]

theorem exec_ldVxK_of_some (x : Reg) {k : Reg} (h : s.lowestHeld = some k) :
    exec (.ldVxK x) s = .next (s.setV x (trunc8 k.val)).advance := by
  rw [exec, execLdVxK, h]

/-! The same, read from the next state. -/

variable {t : State}

theorem call_cases {nnn : Addr12} (h : exec (.call nnn) s = .next t) :
    (s.cfg.stackPolicy = .report ∧ s.SP.val = 16) ∧ t = s.reportAndAdvance .stackOverflow (encode (.call nnn)) ∨
    ¬ (s.cfg.stackPolicy = .report ∧ s.SP.val = 16) ∧ t = (s.push s.pc).setPc (zext16 nnn) := by
  by_cases hfull : s.cfg.stackPolicy = .report ∧ s.SP.val = 16
  · exact .inl ⟨hfull, Host.Outcome.next.inj (h.symm.trans (exec_call_of_full nnn hfull))⟩
  · exact .inr ⟨hfull, Host.Outcome.next.inj (h.symm.trans (exec_call_of_not_full nnn hfull))⟩

theorem ret_cases (h : exec .ret s = .next t) :
    (s.cfg.stackPolicy = .report ∧ s.SP.val = 0) ∧ t = s.reportAndAdvance .stackUnderflow (encode .ret) ∨
    ¬ (s.cfg.stackPolicy = .report ∧ s.SP.val = 0) ∧ t = s.pop.setPc (s.popped + 2) := by
  by_cases hempty : s.cfg.stackPolicy = .report ∧ s.SP.val = 0
  · exact .inl ⟨hempty, Host.Outcome.next.inj (h.symm.trans (exec_ret_of_empty hempty))⟩
  · exact .inr ⟨hempty, Host.Outcome.next.inj (h.symm.trans (exec_ret_of_not_empty hempty))⟩

theorem ldVxK_cases {x : Reg} (h : exec (.ldVxK x) s = .next t) :
    s.lowestHeld = none ∧ t = s ∨ ∃ k, s.lowestHeld = some k ∧ t = (s.setV x (trunc8 k.val)).advance := by
  cases hkey : s.lowestHeld with
  | none => exact .inl ⟨rfl, Host.Outcome.next.inj (h.symm.trans (exec_ldVxK_of_none x hkey))⟩
  | some k => exact .inr ⟨k, rfl, Host.Outcome.next.inj (h.symm.trans (exec_ldVxK_of_some x hkey))⟩

end

/-- Every instruction answers a next state, from every state. -/
theorem exec_next (i : Instr) (s : State) : ∃ t, exec i s = .next t := by
  cases i with
  | call nnn =>
    by_cases h : s.cfg.stackPolicy = .report ∧ s.SP.val = 16
    · exact ⟨_, exec_call_of_full nnn h⟩
    · exact ⟨_, exec_call_of_not_full nnn h⟩
  | ret =>
    by_cases h : s.cfg.stackPolicy = .report ∧ s.SP.val = 0
    · exact ⟨_, exec_ret_of_empty h⟩
    · exact ⟨_, exec_ret_of_not_empty h⟩
  | ldVxK x =>
    cases h : s.lowestHeld with
    | none => exact ⟨_, exec_ldVxK_of_none x h⟩
    | some k => exact ⟨_, exec_ldVxK_of_some x h⟩
  | _ => exact ⟨_, rfl⟩

/-- The frame of the five instructions of family 8 that write a result and a flag, as a row of the table. -/
theorem State.onlyChanges_setVThenFlag_advance_row (s : State) (x : Reg) (r : AluResult) :
    OnlyChanges (fun p => p = .pc ∨ p = .V x ∨ p = .V 15) s (s.setVThenFlag x r).advance :=
  ((s.onlyChanges_setV x r.value).trans (State.onlyChanges_setV _ vf _)).advance

/-- Settles O41: each row of the table is the frame of the operations its meaning is made of. -/
theorem eachInstructionWritesOnlyItsTableRow : Obligations.EachInstructionWritesOnlyItsTableRow := by
  intro i s t h
  cases i with
  | sys => cases h; exact (OnlyChanges.refl _ s).advance
  | cls =>
    cases h
    refine (s.onlyChanges_drawFrame _).advance.mono fun p hp => hp.imp_right (Or.imp_right ?_)
    rintro ⟨k, -, rfl⟩
    exact ⟨k, rfl⟩
  | drw x y n =>
    cases h
    refine ((s.onlyChanges_drawFrame _).trans (State.onlyChanges_setV _ vf _)).advance.mono fun p hp =>
      hp.imp_right ?_
    rintro ((rfl | ⟨k, hk, rfl⟩) | rfl)
    · exact .inr (.inl rfl)
    · exact .inr (.inr ⟨k, s.mem_toggles_of_cell_drawn_ne hk, rfl⟩)
    · exact .inl rfl
  | jp | jpV0 => cases h; exact (s.onlyChanges_setPc _).mono fun _ => .inl
  | seImm | sneImm | seReg | sneReg | skp | sknp => cases h; exact (s.onlyChanges_skipIf _).mono fun _ => .inl
  | call nnn =>
    obtain ⟨-, rfl⟩ | ⟨-, rfl⟩ := call_cases h
    · exact (s.onlyChanges_reportAndAdvance _ _).mono fun p hp => hp.imp_right fun e => .inr (.inl e)
    · refine ((s.onlyChanges_push _).trans (State.onlyChanges_setPc _ _)).mono ?_
      rintro p ((rfl | rfl) | rfl) <;> simp
  | ret =>
    obtain ⟨-, rfl⟩ | ⟨-, rfl⟩ := ret_cases h
    · exact (s.onlyChanges_reportAndAdvance _ _).mono fun p hp => hp.imp_right .inr
    · exact (s.onlyChanges_pop.trans (State.onlyChanges_setPc _ _)).mono fun p hp => hp.symm.imp_right .inl
  | ldImm | addImm | ldReg | orReg | andReg | xorReg | ldVxDT => cases h; exact (s.onlyChanges_setV _ _).advance
  | addReg | subReg | shr | subnReg | shl => cases h; exact s.onlyChanges_setVThenFlag_advance_row _ _
  | ldI | ldF => cases h; exact (s.onlyChanges_setI _).advance
  | rnd =>
    cases h
    exact (s.onlyChanges_rndTaken.trans (State.onlyChanges_setV _ _ _)).advance.mono fun p hp => hp.imp_right Or.symm
  | ldVxK x =>
    obtain ⟨-, rfl⟩ | ⟨k, -, rfl⟩ := ldVxK_cases h
    · exact .refl _ _
    · exact (s.onlyChanges_setV _ _).advance
  | ldDTVx => cases h; exact (s.onlyChanges_setDT _).advance
  | ldSTVx => cases h; exact (s.onlyChanges_setST _).advance
  | addI => cases h; exact ((s.onlyChanges_setI _).trans (State.onlyChanges_setV _ vf _)).advance
  | ldB x => cases h; exact (s.onlyChanges_storeBytes s.I (bcdDigits (s.getV x))).advance
  | storeRegs x =>
    cases h
    refine ((s.onlyChanges_storeBytes s.I _).trans (State.onlyChanges_blockIncrement _ _ _)).advance.mono fun p hp =>
      hp.imp_right fun hp => hp.symm.imp ?_ ?_
    · rw [s.storeBytes_fields]
      exact id
    · rintro ⟨k, hk, rfl⟩
      rw [List.length_map, length_regsUpTo] at hk
      exact ⟨⟨k, by omega⟩, Nat.le_of_lt_succ hk, rfl⟩
  | loadRegs x =>
    cases h
    refine ((s.onlyChanges_loadInto s.I _).trans (State.onlyChanges_blockIncrement _ _ _)).advance.mono fun p hp =>
      hp.imp_right fun hp => hp.symm.imp ?_ ?_
    · rw [s.loadInto_fields]
      exact id
    · rintro ⟨k, hk, rfl⟩
      exact ⟨k, (mem_regsUpTo x k).mp hk, rfl⟩

end Sys2Proof.Machine
end

section
/-! PROOFS. The invariant (spec/10_state.md R33) and the step cycle (spec/30_encoding.md R68, R71;
spec/60_exceptions.md R120 to R128, R135). -/

namespace Sys2Proof.Machine

section
variable (s : State) (i : Word) (k : Nat) (bs : List Byte) (rs : List Reg)

@[simp] theorem State.storeBytes_I : (s.storeBytes i k bs).I = s.I := by rw [s.storeBytes_fields]
@[simp] theorem State.storeBytes_pc : (s.storeBytes i k bs).pc = s.pc := by rw [s.storeBytes_fields]
@[simp] theorem State.storeBytes_cfg : (s.storeBytes i k bs).cfg = s.cfg := by rw [s.storeBytes_fields]
@[simp] theorem State.loadInto_I : (s.loadInto i rs).I = s.I := by rw [s.loadInto_fields]
@[simp] theorem State.loadInto_pc : (s.loadInto i rs).pc = s.pc := by rw [s.loadInto_fields]
@[simp] theorem State.loadInto_M : (s.loadInto i rs).M = s.M := by rw [s.loadInto_fields]
@[simp] theorem State.loadInto_cfg : (s.loadInto i rs).cfg = s.cfg := by rw [s.loadInto_fields]

end

/-! Parts that an instruction leaves alone, from the table of `eachInstructionWritesOnlyItsTableRow`. -/

section
variable {i : Instr} {s t : State}

theorem exec_cfg (h : exec i s = .next t) : t.cfg = s.cfg := by
  have hsame := eachInstructionWritesOnlyItsTableRow i s t h .cfg
  cases i <;> exact hsame (by simp)

theorem exec_SP (h : exec i s = .next t) (hcall : ∀ nnn, i ≠ .call nnn) (hret : i ≠ .ret) : t.SP = s.SP := by
  have hsame := eachInstructionWritesOnlyItsTableRow i s t h .SP
  cases i with
  | call nnn => exact absurd rfl (hcall nnn)
  | ret => exact absurd rfl hret
  | _ => exact hsame (by simp)

/-- Memory changes only through the block of single bytes that FX33 and FX55 store from I on. -/
theorem exec_M (h : exec i s = .next t) : t.M = s.M ∨ ∃ bs, t.M = (s.storeBytes s.I 0 bs).M := by
  cases i with
  | ldB x => cases h; exact .inr ⟨_, rfl⟩
  | storeRegs x => cases h; exact .inr ⟨(regsUpTo x).map s.getV, by rw [State.advance_M, State.blockIncrement_M]⟩
  | loadRegs x => cases h; left; rw [State.advance_M, State.blockIncrement_M, State.loadInto_M]
  | seImm | sneImm | seReg | sneReg | skp | sknp => cases h; exact .inl (s.skipIf_M _)
  | rnd => cases h; left; rw [State.advance_M, State.setV_M, State.rndTaken_M]
  | call => obtain ⟨-, rfl⟩ | ⟨-, rfl⟩ := call_cases h <;> exact .inl rfl
  | ret => obtain ⟨-, rfl⟩ | ⟨-, rfl⟩ := ret_cases h <;> exact .inl rfl
  | ldVxK => obtain ⟨-, rfl⟩ | ⟨k, -, rfl⟩ := ldVxK_cases h <;> exact .inl rfl
  | _ => cases h; exact .inl rfl

theorem exec_wf (h : exec i s = .next t) (hwf : s.M.wf s.cfg.fontBase = true) : t.M.wf t.cfg.fontBase = true := by
  rw [exec_cfg h]
  obtain hM | ⟨bs, hM⟩ := exec_M h
  · rwa [hM]
  · rw [hM]
    exact s.wf_storeBytes s.I 0 bs hwf

/-- R23: under `WRAP` a push and a pop leave SP below 16, whatever it was. -/
theorem exec_SP_lt (h : exec i s = .next t) (hwrap : s.cfg.stackPolicy = .wrap) (hsp : s.SP.val < 16) :
    t.SP.val < 16 := by
  have hnot {p : Prop} : ¬ (s.cfg.stackPolicy = .report ∧ p) := by simp [hwrap]
  cases i with
  | call nnn =>
    obtain ⟨hfull, -⟩ | ⟨-, rfl⟩ := call_cases h
    · exact absurd hfull hnot
    · rw [State.setPc_SP, State.push_SP, hwrap, spAfterPush_wrap]
      omega
  | ret =>
    obtain ⟨hempty, -⟩ | ⟨-, rfl⟩ := ret_cases h
    · exact absurd hempty hnot
    · rw [State.setPc_SP, State.pop_SP, hwrap, spAfterPop_wrap]
      omega
  | _ => rwa [exec_SP h (by simp) (by simp)]

theorem exec_inv (h : exec i s = .next t) (hinv : Inv s) : Inv t := by
  obtain ⟨hwf, hsp⟩ := hinv
  refine ⟨exec_wf h hwf, fun hwrap => ?_⟩
  rw [exec_cfg h] at hwrap
  exact exec_SP_lt h hwrap (hsp hwrap)

end

/-- Settles O42: the outputs and the tick touch neither memory nor SP, so `exec_inv` carries the invariant. -/
theorem everyStepKeepsTheInvariant : Obligations.EveryStepKeepsTheInvariant := by
  intro s t hinv h
  obtain ⟨e, -, rfl⟩ | ⟨i, u, -, hexec, rfl⟩ := step_cases h
  · exact hinv
  · have hafter : Inv u := exec_inv hexec hinv
    exact hafter

theorem step_cfg {s t : State} (h : step s = .next t) : t.cfg = s.cfg := by
  obtain ⟨e, -, rfl⟩ | ⟨i, u, -, hexec, rfl⟩ := step_cases h
  · rfl
  · exact (State.tick_cfg u).trans (exec_cfg (s := s.clearOutputs) hexec)

/-- A step from every state answers a next state. -/
theorem step_next (s : State) : ∃ t, step s = .next t := by
  cases hdec : decodeWord s.fetchWord with
  | error e => exact ⟨_, step_of_unrecognized hdec⟩
  | ok i =>
    obtain ⟨u, hexec⟩ := exec_next i s.clearOutputs
    exact ⟨u.tick, by rw [step_of_recognized hdec, hexec]⟩

/-- Settles O9: an unrecognized word is a no-op, and every instruction answers a next state. -/
theorem everyStepCompletes : Obligations.EveryStepCompletes := step_next

theorem byte_eq_one_iff (v : Byte) : v = 1 ↔ v.toNat = 1 := BitVec.toNat_inj.symm

theorem tick_beep_iff (s : State) : s.tick.beep = true ↔ s.ST.toNat = 1 := by
  rw [State.tick_beep, decide_eq_true_eq, byte_eq_one_iff]

/-- Settles O8: the step is the report of R68 between the dropping of the last outputs and the tick. -/
theorem unrecognizedWordIsAReportedNoop : Obligations.UnrecognizedWordIsAReportedNoop := by
  intro s e hdec
  refine ⟨_, step_of_unrecognized hdec, rfl, rfl, tickTimer_toNat s.DT, tickTimer_toNat s.ST,
    decide_eq_decide.mpr (byte_eq_one_iff s.ST), ?_⟩
  refine ((s.onlyChanges_clearOutputs.trans (State.onlyChanges_reportAndAdvance _ _ _)).trans
    (State.onlyChanges_tick _)).mono ?_
  simp only [List.mem_cons, List.not_mem_nil, or_false]
  tauto

/-- Settles O11: execute leaves the timers alone but for FX15 and FX18, and the tick counts down what it left. -/
theorem timerTickEndsEveryStep : Obligations.TimerTickEndsEveryStep := by
  intro s
  obtain ⟨t, h⟩ := step_next s
  refine ⟨t, h, ?_⟩
  obtain ⟨e, hdec, rfl⟩ | ⟨i, u, hdec, hexec, rfl⟩ := step_cases h
  · rw [hdec]
    exact ⟨tickTimer_toNat s.DT, tickTimer_toNat s.ST, tick_beep_iff _⟩
  · have hframe := eachInstructionWritesOnlyItsTableRow i s.clearOutputs u hexec
    rw [hdec, State.tick_DT, tickTimer_toNat, State.tick_ST, tickTimer_toNat, tick_beep_iff]
    constructor
    case left =>
      cases i with
      | ldDTVx x => cases hexec; rfl
      | _ => exact congrArg (·.toNat - 1) (hframe .DT (by simp))
    case right =>
      cases i with
      | ldSTVx x => cases hexec; exact ⟨rfl, Iff.rfl⟩
      | _ =>
        have hST : u.ST = s.ST := hframe .ST (by simp)
        rw [hST]
        exact ⟨rfl, Iff.rfl⟩

/-- Settles O12: only CALL and RET can report, each with its encoding, which is the fetched word. -/
theorem reportOutputOfEveryStep : Obligations.ReportOutputOfEveryStep := by
  intro s
  obtain ⟨t, h⟩ := step_next s
  refine ⟨t, h, ?_⟩
  obtain ⟨e, hdec, rfl⟩ | ⟨i, u, hdec, hexec, rfl⟩ := step_cases h
  · rw [hdec]
    rfl
  · have hword : encode i = s.fetchWord := (encodeUndoesDecode _ _ hdec).2
    have hreport := eachInstructionWritesOnlyItsTableRow i s.clearOutputs u hexec .report
    rw [hdec]
    cases i with
    | call nnn =>
      obtain ⟨hfull, rfl⟩ | ⟨hfull, rfl⟩ := call_cases hexec
      · exact (congrArg (fun w => some (Report.mk _ s.pc w)) hword).trans (if_pos hfull).symm
      · exact (if_neg hfull).symm
    | ret =>
      obtain ⟨hempty, rfl⟩ | ⟨hempty, rfl⟩ := ret_cases hexec
      · exact (congrArg (fun w => some (Report.mk _ s.pc w)) hword).trans (if_pos hempty).symm
      · exact (if_neg hempty).symm
    | _ => exact hreport (by simp)

/-- Settles O7: decoding the two clamped bytes is decoding the fetched word. -/
theorem stepRunsTheDecodedInstruction : Obligations.StepRunsTheDecodedInstruction := by
  intro s i h
  have hdec : decodeWord s.fetchWord = .ok i := by
    have hbytes : decode s.fetchBytes = .ok (i, []) := h
    rw [State.decode_fetchBytes] at hbytes
    cases hword : decodeWord s.fetchWord with
    | ok j => rw [hword] at hbytes; cases hbytes; rfl
    | error e => rw [hword] at hbytes; cases hbytes
  exact step_of_recognized hdec

/-- Settles O6: the two fetched bytes are those of `wordOfBytes`, at clamped addresses. -/
theorem fetchIsBigEndianAndClamped : Obligations.FetchIsBigEndianAndClamped := by
  intro s
  have hfetch : s.fetchWord.toNat =
      (s.byteAt (clampA s.pc.toNat)).toNat * 0x100 + (s.byteAt (clampA (s.pc.toNat + 1))).toNat :=
    wordOfBytes_toNat _ _
  constructor
  · intro hpc
    rw [hfetch, clampA_of_lt (by omega), clampA_of_lt (by omega), Nat.mul_comm]
  · intro hpc
    rw [hfetch, clampA_of_ge (by omega), clampA_of_ge (by omega), Nat.mul_comm]

end Sys2Proof.Machine
end

section
/-! PROOFS. Control flow (spec/40_control_flow.md R73 to R82; spec/44_keypad_timers.md R112 to R115) and where each
instruction leaves pc (spec/10_state.md R19). -/

namespace Sys2Proof.Machine

theorem OnlyChanges.pc_mem {s t : State} (h : OnlyChanges (· = .pc) s t) : OnlyChanges (· ∈ [.pc]) s t :=
  h.mono fun _ => List.mem_singleton.mpr

theorem OnlyChanges.pair_mem {s t : State} {q : Part} (h : OnlyChanges (fun p => p = .pc ∨ p = q) s t) :
    OnlyChanges (· ∈ [q, .pc]) s t :=
  h.mono fun _ hp => List.mem_pair.mpr hp.symm

/-! Jumps. -/

theorem jumpV0Target_eq (nnn : Addr12) (v : Byte) : jumpV0Target nnn v = nnn.setWidth 16 + v.setWidth 16 := by
  have hn := nnn.isLt
  have hv := v.isLt
  apply BitVec.eq_of_toNat_eq
  rw [jumpV0Target_toNat, BitVec.toNat_add, BitVec.toNat_setWidth, BitVec.toNat_setWidth]
  omega

/-- Settles O14: SYS only advances, and the two jumps only set pc. -/
theorem sysAndJumps : Obligations.SysAndJumps := fun nnn s =>
  ⟨⟨s.advance, rfl, s.advance_pc, (s.onlyChanges_setPc _).pc_mem⟩,
   ⟨s.setPc (zext16 nnn), rfl, zext16_toNat nnn, (s.onlyChanges_setPc _).pc_mem⟩,
   ⟨s.setPc (jumpV0Target nnn (s.getV 0)), rfl, jumpV0Target_toNat nnn _, (s.onlyChanges_setPc _).pc_mem⟩⟩

/-! Skips. -/

theorem State.skipIf_pc_toNat (s : State) (c : Bool) :
    (s.skipIf c).pc.toNat = (s.pc.toNat + if c = true then 4 else 2) % 0x10000 := by
  cases c <;> exact BitVec.toNat_add _ _

theorem State.skipIf_not_pc (s : State) (c : Bool) :
    (s.skipIf !c).pc = if c = true then s.pc + 2 else s.pc + 4 := by
  cases c <;> rfl

/-- Settles O15: each is the shared skip under its condition, which compares bytes as numbers. -/
theorem registerSkips : Obligations.RegisterSkips := by
  intro x y nn n s p hp
  have hskip : exec p.1 s = .next (s.skipIf p.2) := by
    simp only [List.mem_cons, List.not_mem_nil, or_false] at hp
    have hsame {c d : Prop} [Decidable c] [Decidable d] (h : c ↔ d) :
        (.next (s.skipIf (decide c)) : Host.Outcome State Fault Refusal) = .next (s.skipIf (decide d)) := by
      rw [decide_eq_decide.mpr h]
    obtain rfl | rfl | rfl | rfl := hp
    · exact hsame BitVec.toNat_inj.symm
    · exact hsame (not_congr BitVec.toNat_inj.symm)
    · exact hsame BitVec.toNat_inj.symm
    · exact hsame (not_congr BitVec.toNat_inj.symm)
  exact ⟨_, hskip, s.skipIf_pc_toNat p.2, (s.onlyChanges_skipIf p.2).pc_mem⟩

theorem keyIdx_eq {v : Byte} {k : Reg} (h : v.toNat = k.val ∨ (16 ≤ v.toNat ∧ k = 15)) : keyIdx v = k := by
  apply Fin.ext
  rw [keyIdx_val]
  obtain h | ⟨h, rfl⟩ := h
  · omega
  · exact Nat.min_eq_right (by omega)

/-- Settles O38: the key named is `keyIdx` of Vx, and both are the shared skip on its bit. -/
theorem keySkips : Obligations.KeySkips := by
  intro x k s hk
  have hkey : s.held (keyIdx (s.getV x)) = s.held k := by rw [keyIdx_eq hk]
  refine ⟨⟨_, rfl, ?_, (s.onlyChanges_skipIf _).pc_mem⟩, ⟨_, rfl, ?_, (s.onlyChanges_skipIf _).pc_mem⟩⟩
  · rw [State.skipIf_pc, hkey]
  · rw [State.skipIf_not_pc, hkey]

/-! The key wait. -/

theorem scannedKeys_eq (c : Config) : scannedKeys c = c.keywaitScanLimit.value := by
  unfold scannedKeys
  cases c.keywaitScanLimit <;> rfl

theorem State.lowestHeld_eq_none_iff (s : State) :
    s.lowestHeld = none ↔ ∀ k : Reg, k.val < scannedKeys s.cfg → s.held k = false := by
  rw [scannedKeys_eq]
  exact s.lowestHeld_none

/-- A scanned held key with no held key below it is the one that FX0A takes. -/
theorem State.lowestHeld_eq_some {s : State} {k : Reg} (hscan : k.val < scannedKeys s.cfg) (hk : s.held k = true)
    (hleast : ∀ j : Reg, j < k → s.held j = false) : s.lowestHeld = some k := by
  cases h : s.lowestHeld with
  | none => exact absurd (s.lowestHeld_eq_none_iff.mp h k hscan) (by simp [hk])
  | some q =>
    obtain hlt | rfl | hgt := lt_trichotomy q k
    · exact absurd (s.lowestHeld_some h).2 (by simp [hleast q hlt])
    · rfl
    · exact absurd (s.lowestHeld_least h hgt) (by simp [hk])

/-- Settles O37: the key taken is `lowestHeld`, and there is none exactly when no scanned key is held. -/
theorem keyWaitTakesTheLowestHeldKey : Obligations.KeyWaitTakesTheLowestHeldKey := by
  refine fun x s => ⟨fun hnone => ?none, fun k hscan hk hleast => ?some⟩
  case none => exact exec_ldVxK_of_none x (s.lowestHeld_eq_none_iff.mpr hnone)
  case some =>
    refine ⟨_, exec_ldVxK_of_some x (State.lowestHeld_eq_some hscan hk hleast), ?_, rfl,
      (s.onlyChanges_setV x _).advance.pair_mem⟩
    rw [State.advance_getV, State.getV_setV_same, trunc8_toNat]
    omega

/-! The call stack. -/

theorem State.stackAt_mod (s : State) (j : Nat) : s.stackAt (j % 16) = s.stackAt j := by
  simp only [State.stackAt, Nat.mod_mod]

theorem State.stackAt_push_same (s : State) (v : Word) : (s.push v).stackAt s.SP.val = v := by
  rw [State.stackAt_push, if_pos rfl]

/-- R75, R76: under both policies a pop takes SP back to where a push of a free entry found it. -/
theorem spAfterPop_spAfterPush (p : StackPolicy) {sp : Fin 17} (h : sp.val < 16) :
    spAfterPop p (spAfterPush p sp) = sp := by
  apply Fin.ext
  cases p with
  | report =>
    have hpush := spAfterPush_report h
    rw [spAfterPop_report (by omega), hpush]
    omega
  | wrap =>
    rw [spAfterPop_wrap, spAfterPush_wrap]
    omega

/-- Settles O16: the two branches of CALL; a push that is made under `REPORT` finds SP below 16. -/
theorem callPushesItsAddressAndJumps : Obligations.CallPushesItsAddressAndJumps := by
  refine fun nnn s => ⟨fun hfull => ?pushed, fun hfull => ?reported⟩
  case reported =>
    exact ⟨_, exec_call_of_full nnn hfull, rfl, rfl,
      (s.onlyChanges_reportAndAdvance _ _).mono fun _ => List.mem_pair.mpr⟩
  case pushed =>
    refine ⟨_, exec_call_of_not_full nnn hfull, ?entry, ?sp, zext16_toNat nnn, ?frame⟩
    case entry => rw [State.setPc_stackAt, State.stackAt_mod, State.stackAt_push_same]
    case sp =>
      rw [State.setPc_SP, State.push_SP]
      cases hpol : s.cfg.stackPolicy with
      | report =>
        have hlt : s.SP.val < 16 := by
          have hne : s.SP.val ≠ 16 := fun e => hfull ⟨hpol, e⟩
          omega
        exact spAfterPush_report hlt
      | wrap => exact spAfterPush_wrap s.SP
    case frame =>
      refine ((s.onlyChanges_push _).trans (State.onlyChanges_setPc _ _)).mono ?_
      rintro p ((rfl | rfl) | rfl) <;> simp

/-- Settles O17: the two branches of RET; a pop that is made under `REPORT` finds SP above 0. -/
theorem retPopsAndReturnsPastTheCall : Obligations.RetPopsAndReturnsPastTheCall := by
  refine fun s => ⟨fun hempty => ?popped, fun hempty => ?reported⟩
  case reported =>
    exact ⟨_, exec_ret_of_empty hempty, rfl, rfl,
      (s.onlyChanges_reportAndAdvance _ _).mono fun _ => List.mem_pair.mpr⟩
  case popped =>
    refine ⟨_, exec_ret_of_not_empty hempty, ?sp, BitVec.toNat_add _ _, ?frame⟩
    case sp =>
      rw [State.setPc_SP, State.pop_SP]
      cases hpol : s.cfg.stackPolicy with
      | report => exact spAfterPop_report (Nat.pos_of_ne_zero fun e => hempty ⟨hpol, e⟩)
      | wrap => exact spAfterPop_wrap s.SP
    case frame =>
      exact (s.onlyChanges_pop.trans (State.onlyChanges_setPc _ _)).mono fun _ hp => List.mem_pair.mpr hp.symm

/-- Settles O18: the CALL pushes, so the RET finds an entry to pop, at the place that the CALL pushed to. -/
theorem retUndoesCall : Obligations.RetUndoesCall := by
  intro nnn s t u hlt hcall hret
  obtain ⟨⟨-, hsp⟩, -⟩ | ⟨-, rfl⟩ := call_cases hcall
  · omega
  have hback : spAfterPop s.cfg.stackPolicy (spAfterPush s.cfg.stackPolicy s.SP) = s.SP :=
    spAfterPop_spAfterPush _ hlt
  obtain ⟨⟨hpol, hsp⟩, -⟩ | ⟨-, rfl⟩ := ret_cases hret
  · simp only [State.setPc_cfg, State.push_cfg] at hpol
    rw [State.setPc_SP, State.push_SP, hpol, spAfterPush_report hlt] at hsp
    omega
  · refine ⟨?_, hback, rfl⟩
    rw [State.setPc_pc, State.popped, State.setPc_SP, State.push_SP, State.setPc_cfg, State.push_cfg, hback,
      State.setPc_stackAt, State.stackAt_push_same]

/-! Where pc goes. -/

theorem exec_pc_call {nnn : Addr12} {s t : State} (h : exec (.call nnn) s = .next t) :
    t.pc = if s.cfg.stackPolicy = .report ∧ s.SP.val = 16 then s.pc + 2 else nnn.setWidth 16 := by
  obtain ⟨hfull, rfl⟩ | ⟨hfull, rfl⟩ := call_cases h
  · exact (if_pos hfull).symm
  · exact (if_neg hfull).symm

theorem exec_pc_ret_report {s t : State} (hpol : s.cfg.stackPolicy = .report) (h : exec .ret s = .next t) :
    t.pc = if s.SP.val = 0 then s.pc + 2 else s.stackAt (s.SP.val - 1) + 2 := by
  obtain ⟨⟨-, hsp⟩, rfl⟩ | ⟨hempty, rfl⟩ := ret_cases h
  · exact (if_pos hsp).symm
  · have hsp : s.SP.val ≠ 0 := fun e => hempty ⟨hpol, e⟩
    rw [State.setPc_pc, State.popped, hpol, spAfterPop_report (Nat.pos_of_ne_zero hsp), if_neg hsp]

theorem exec_pc_ret_wrap {s t : State} (hpol : s.cfg.stackPolicy = .wrap) (h : exec .ret s = .next t) :
    t.pc = s.stackAt ((s.SP.val + 15) % 16) + 2 := by
  obtain ⟨⟨hrep, -⟩, -⟩ | ⟨-, rfl⟩ := ret_cases h
  · exact absurd (hpol.symm.trans hrep) (by decide)
  · rw [State.setPc_pc, State.popped, hpol, spAfterPop_wrap]

theorem exec_pc_ldVxK {x : Reg} {s t : State} (h : exec (.ldVxK x) s = .next t) :
    t.pc = if ∀ k : Reg, k.val < scannedKeys s.cfg → s.held k = false then s.pc else s.pc + 2 := by
  obtain ⟨hkey, rfl⟩ | ⟨k, hkey, rfl⟩ := ldVxK_cases h
  · exact (if_pos ((State.lowestHeld_eq_none_iff _).mp hkey)).symm
  · exact (if_neg fun hnone => by simp [s.lowestHeld_eq_none_iff.mpr hnone] at hkey).symm

/-- Settles O10: the jumps set pc, the skips are the shared skip, CALL, RET and the key wait go by their branch, and
every other meaning ends in `advance`. -/
theorem programCounterAdvances : Obligations.ProgramCounterAdvances := by
  refine ⟨fun i s => ?_, fun s e hdec => ⟨_, step_of_unrecognized hdec, rfl⟩⟩
  obtain ⟨t, h⟩ := exec_next i s
  refine ⟨t, h, ?_⟩
  cases i with
  | jp => cases h; rfl
  | jpV0 => cases h; exact jumpV0Target_eq _ _
  | call => exact exec_pc_call h
  | ret =>
    cases hpol : s.cfg.stackPolicy with
    | report => exact exec_pc_ret_report hpol h
    | wrap => exact exec_pc_ret_wrap hpol h
  | seImm | seReg | sneImm | sneReg => cases h; simp
  | skp => cases h; exact s.skipIf_pc _
  | sknp => cases h; exact s.skipIf_not_pc _
  | ldVxK => exact exec_pc_ldVxK h
  | _ => cases h; simp

end Sys2Proof.Machine
end

section
/-! PROOFS. Register writes, flags, the index register and the timers (spec/41_register_alu.md; spec/42_index_memory.md
R98 to R100; spec/44_keypad_timers.md R116 to R118). -/

namespace Sys2Proof.Machine

/-! The two shared ends of the register instructions: a plain write, and a result with its flag. -/

/-- An instruction whose whole effect is to write a value to a register and go on. -/
theorem plainWrite {i : Instr} {s : State} {x : Reg} {v : Byte} (h : exec i s = .next (s.setV x v).advance) :
    ∃ t, exec i s = .next t ∧ t.getV x = v ∧ t.pc = s.pc + 2 ∧ OnlyChanges (· ∈ [.V x, .pc]) s t :=
  ⟨_, h, s.getV_setV_same x v, rfl, (s.onlyChanges_setV x v).advance.pair_mem⟩

/-- Settles O20: all six are plain writes, so x = 0xF is as any other register. -/
theorem flaglessRegisterWrites : Obligations.FlaglessRegisterWrites := by
  intro x y nn s p hp
  apply plainWrite
  simp only [List.mem_cons, List.not_mem_nil, or_false] at hp
  obtain rfl | rfl | rfl | rfl | rfl | rfl := hp <;> rfl

/-- An instruction whose whole effect is to write a result and then a flag and go on. -/
theorem resultAndFlag {i : Instr} {s : State} {x : Reg} {r : AluResult}
    (h : exec i s = .next (s.setVThenFlag x r).advance) :
    ∃ t, exec i s = .next t ∧ (x ≠ 15 → t.getV x = r.value) ∧ t.getV 15 = (if r.flag = true then 1 else 0) ∧
      t.pc = s.pc + 2 ∧ OnlyChanges (· ∈ [.V x, .V 15, .pc]) s t :=
  ⟨_, h, s.getV_setVThenFlag_result x r, (s.getV_setVThenFlag_vf x r).trans (flagByte_eq_ite _), rfl,
    s.onlyChanges_setVThenFlag_advance x r⟩

theorem ite_subNotBorrow_flag (a b : Byte) :
    (if (subNotBorrow a b).flag = true then 1 else 0 : Byte) = if a.toNat < b.toNat then 0 else 1 := by
  rw [← ite_not]
  exact if_congr (by rw [subNotBorrow_flag, not_le]) rfl rfl

/-- Settles O22: both directions are `subNotBorrow` of their operands, whose flag is the not-borrow. -/
theorem subtractWithNotBorrow : Obligations.SubtractWithNotBorrow := by
  intro x y s p hp
  have hsub : exec p.1 s = .next (s.setVThenFlag x (subNotBorrow p.2.1 p.2.2)).advance := by
    simp only [List.mem_cons, List.not_mem_nil, or_false] at hp
    obtain rfl | rfl := hp <;> rfl
  obtain ⟨t, h, hvalue, hflag, hrest⟩ := resultAndFlag hsub
  rw [subNotBorrow_value] at hvalue
  rw [ite_subNotBorrow_flag] at hflag
  exact ⟨t, h, hvalue, hflag, hrest⟩

/-- Settles O23: the values are those of `shiftRight1` and `shiftLeft1` of Vx, whose flags are bit 0 and bit 7. -/
theorem shiftsActOnVxInPlace : Obligations.ShiftsActOnVxInPlace := by
  intro x y s
  have hright : exec (.shr x y) s = .next (s.setVThenFlag x (shiftRight1 (s.getV x))).advance := rfl
  have hleft : exec (.shl x y) s = .next (s.setVThenFlag x (shiftLeft1 (s.getV x))).advance := rfl
  constructor
  · exact shiftRight1_value (s.getV x) ▸ resultAndFlag hright
  · exact shiftLeft1_value (s.getV x) ▸ resultAndFlag hleft

/-! The random byte. -/

/-- Settles O24: `rndByte` and `rndTaken` on a queue with a byte and on an empty one. -/
theorem randomByteUnderMask : Obligations.RandomByteUnderMask := by
  intro x nn s
  refine ⟨_, rfl, ?pc, fun b rest hqueue => ?supplied, fun hqueue => ?free, ?frame⟩
  case pc => rw [State.advance_pc, State.setV_pc, State.rndTaken_pc]
  case supplied => simp [hqueue, State.rndByte]
  case free => simp [hqueue, State.rndByte]
  case frame =>
    refine (s.onlyChanges_rndTaken.trans (State.onlyChanges_setV _ x _)).advance.mono ?_
    rintro p (rfl | (rfl | rfl) | rfl) <;> simp

/-! The index register. -/

/-- Settles O25: both write I with a value that 16 bits hold. -/
theorem indexLoads : Obligations.IndexLoads := fun x nnn s =>
  ⟨⟨_, rfl, zext16_toNat nnn, rfl, (s.onlyChanges_setI _).advance.pair_mem⟩,
   ⟨_, rfl, glyphAddr_toNat (s.getV x), rfl, (s.onlyChanges_setI _).advance.pair_mem⟩⟩

theorem exec_addI_vf (x : Reg) {s t : State} (h : exec (.addI x) s = .next t) :
    t.getV 15 = if 0x0FFF < s.I.toNat + (s.getV x).toNat then 1 else 0 := by
  cases h
  rw [State.advance_getV, State.getV_setV_same, flagByte_eq_ite]
  exact if_congr (passes12Bits_iff _) rfl rfl

/-- Settles O26: I keeps the sum modulo 2^16, and VF what `passes12Bits` says of the whole sum. -/
theorem addToIndexFlagsTwelveBitOverflow : Obligations.AddToIndexFlagsTwelveBitOverflow := by
  refine fun x s => ⟨_, rfl, rfl, exec_addI_vf x rfl, rfl, ?_⟩
  refine ((s.onlyChanges_setI _).trans (State.onlyChanges_setV _ vf _)).advance.mono ?_
  rintro p (rfl | rfl | rfl) <;> simp

/-! The timers. -/

/-- Settles O39: a plain write of DT, and the two timer writes. -/
theorem timerMoves : Obligations.TimerMoves := fun _ s =>
  ⟨plainWrite rfl, ⟨_, rfl, rfl, rfl, (s.onlyChanges_setDT _).advance.pair_mem⟩,
   ⟨_, rfl, rfl, rfl, (s.onlyChanges_setST _).advance.pair_mem⟩⟩

/-! VF (R16). -/

/-- The flag of an instruction that writes a result and a flag, when the flag says `c`. -/
theorem vf_setVThenFlag_advance (s : State) (x : Reg) {r : AluResult} {c : Prop} [Decidable c]
    (h : r.flag = true ↔ c) : (s.setVThenFlag x r).advance.getV 15 = if c then 1 else 0 := by
  rw [State.advance_getV, State.getV_setVThenFlag_vf, flagByte_eq_ite]
  exact if_congr h rfl rfl

theorem exec_drw_vf {x y : Reg} {n : Nibble} {s t : State} (h : exec (.drw x y n) s = .next t) :
    t.getV 15 = flagByte (s.drawn (s.getV x) (s.getV y) n).2 := by
  cases h
  exact State.getV_setV_same _ vf _

section
variable {x y : Reg} {n : Nibble} {s t : State} (h : exec (.drw x y n) s = .next t)
include h

theorem exec_drw_vf_of_collision
    (hc : TogglesCollide s (spriteToggles s (s.getV x).toNat (s.getV y).toNat n.toNat)) : t.getV 15 = 1 := by
  rw [exec_drw_vf h, (s.hit_drawn _ _ _).mpr hc, flagByte_true]

theorem exec_drw_vf_of_no_collision
    (hc : ¬ TogglesCollide s (spriteToggles s (s.getV x).toNat (s.getV y).toNat n.toNat)) : t.getV 15 = 0 := by
  rw [exec_drw_vf h, Bool.eq_false_iff.mpr (mt (s.hit_drawn _ _ _).mp hc), flagByte_false]

end

/-- Settles O19: each of the seven by the flag that its meaning writes last, and every other by its row of the
table. -/
theorem vfIsWrittenAsAFlagByExactlySeven : Obligations.VfIsWrittenAsAFlagByExactlySeven := by
  intro i s
  obtain ⟨t, h⟩ := exec_next i s
  have hframe := eachInstructionWritesOnlyItsTableRow i s t h (.V 15)
  refine ⟨t, h, ?_⟩
  cases i with
  | addReg x y => cases h; exact vf_setVThenFlag_advance s x (addCarry_flag _ _)
  | subReg x y | subnReg x y => cases h; exact vf_setVThenFlag_advance s x (subNotBorrow_flag _ _)
  | shr x y => cases h; exact vf_setVThenFlag_advance s x (shiftRight1_flag _)
  | shl x y => cases h; exact vf_setVThenFlag_advance s x (shiftLeft1_flag _)
  | addI x => exact exec_addI_vf x h
  | drw x y n => exact ⟨exec_drw_vf_of_collision h, exec_drw_vf_of_no_collision h⟩
  | ldImm | addImm | ldReg | orReg | andReg | xorReg | rnd | ldVxDT | ldVxK =>
    exact fun hx => hframe (by simp [Ne.symm hx])
  | loadRegs x =>
    refine fun hx => hframe ?_
    rintro (hp | ⟨hp, -⟩ | ⟨k, hk, hp⟩)
    · cases hp
    · cases hp
    · cases hp
      exact hx (le_antisymm (Fin.le_last x) hk)
  | _ => exact hframe (by simp)

end Sys2Proof.Machine
end

section
/-! PROOFS. The memory instructions (spec/42_index_memory.md R101 to R103) and a store seen by the next fetch
(spec/70_reset_and_hazards.md R144). -/

namespace Sys2Proof.Machine

section
variable (s : State) (x : Reg)

theorem State.exec_ldB : exec (.ldB x) s = .next (s.storeBytes s.I 0 (bcdDigits (s.getV x))).advance := rfl

theorem State.exec_storeRegs : exec (.storeRegs x) s =
    .next ((s.storeBytes s.I 0 ((regsUpTo x).map s.getV)).blockIncrement s.I x).advance := rfl

theorem State.exec_loadRegs : exec (.loadRegs x) s =
    .next ((s.loadInto s.I (regsUpTo x)).blockIncrement s.I x).advance := rfl

end

section
variable {s t : State} {x : Reg}

/-! FX33. -/

/-- The byte of a block that a later byte of the same block does not overwrite. -/
theorem byteAt_ldB (h : exec (.ldB x) s = .next t) {k : Nat} {d : Byte} (hd : (bcdDigits (s.getV x))[k]? = some d)
    (hlast : ∀ j, k < j → j < 3 → clampA (s.I.toNat + j) ≠ clampA (s.I.toNat + k)) :
    t.byteAt (clampA (s.I.toNat + k)) = d := by
  cases h
  exact s.byteAt_storeBytes_last s.I 0 (bcdDigits (s.getV x)) k d hd hlast

/-- The three digits, the last write to an address first. -/
theorem byteAt_storeBytes_bcdDigits (v : Byte) (a : Nat) :
    (s.storeBytes s.I 0 (bcdDigits v)).byteAt a =
      if a = clampA (s.I.toNat + 2) then trunc8 (v.toNat % 10)
      else if a = clampA (s.I.toNat + 1) then trunc8 (v.toNat / 10 % 10)
      else if a = clampA s.I.toNat then trunc8 (v.toNat / 100)
      else s.byteAt a := by
  simp only [bcdDigits, State.storeBytes, State.byteAt_memWrite]
  rfl

end

/-- Settles O27: the three bytes are the digits of Vx, each below 10. -/
theorem bcdStoresThreeDigits : Obligations.BcdStoresThreeDigits := by
  intro x s
  have hv := (s.getV x).isLt
  refine ⟨_, s.exec_ldB x, by simp, fun a => ?_, (s.onlyChanges_storeBytes s.I (bcdDigits (s.getV x))).advance⟩
  rw [State.advance_byteAt, byteAt_storeBytes_bcdDigits]
  simp only [apply_ite BitVec.toNat, trunc8_toNat]
  rw [Nat.mod_eq_of_lt (a := _ % 10) (by omega), Nat.mod_eq_of_lt (a := _ / 10 % 10) (by omega),
    Nat.mod_eq_of_lt (a := _ / 100) (by omega)]

/-! FX55 and FX65. -/

section
variable {s t : State} {x k : Reg}

/-- A stored register that no later register of the block overwrites. -/
theorem byteAt_storeRegs (h : exec (.storeRegs x) s = .next t) (hk : k ≤ x)
    (hlast : ∀ j : Reg, k < j → j ≤ x → clampA (s.I.toNat + j.val) ≠ clampA (s.I.toNat + k.val)) :
    t.byteAt (clampA (s.I.toNat + k.val)) = s.getV k := by
  cases h
  rw [State.advance_byteAt, State.blockIncrement_byteAt]
  refine s.byteAt_storeBytes_last s.I 0 _ k.val _ (s.getElem_map_regsUpTo x k hk) fun m hm hlen => ?_
  rw [List.length_map, length_regsUpTo] at hlen
  exact hlast ⟨m, by omega⟩ hm (Nat.le_of_lt_succ hlen)

theorem getV_loadRegs (h : exec (.loadRegs x) s = .next t) (hk : k ≤ x) :
    t.getV k = s.byteAt (clampA (s.I.toNat + k.val)) := by
  cases h
  rw [State.advance_getV, State.blockIncrement_getV, State.getV_loadInto, if_pos ((mem_regsUpTo x k).mpr hk)]
  rfl

end

/-- R102, R103: the end of a block transfer, which has left pc, I and the configuration alone. -/
theorem State.end_of_block {s u : State} (hpc : u.pc = s.pc) (hI : u.I = s.I) (hcfg : u.cfg = s.cfg) (x : Reg) :
    (u.blockIncrement s.I x).advance.pc = s.pc + 2 ∧
    (u.blockIncrement s.I x).advance.I.toNat =
      if s.cfg.blockIncrementsI = true then (s.I.toNat + x.val + 1) % 0x10000 else s.I.toNat := by
  rw [State.advance_pc, State.blockIncrement_pc, State.advance_I, State.blockIncrement_I, apply_ite BitVec.toNat, hpc,
    hI, hcfg]
  exact ⟨rfl, rfl⟩

/-- Settles O28: the block is stored in order, so the last register stored at an address stays. -/
theorem blockStore : Obligations.BlockStore := by
  intro x s
  have hexec := s.exec_storeRegs x
  obtain ⟨hpc, hI⟩ := State.end_of_block (s.storeBytes_pc s.I 0 _) (s.storeBytes_I s.I 0 _) (s.storeBytes_cfg s.I 0 _) x
  exact ⟨_, hexec, hpc, fun k hk => byteAt_storeRegs hexec hk, hI,
    (eachInstructionWritesOnlyItsTableRow _ _ _ hexec).mono fun p hp => hp.imp_right (Or.imp_left And.left)⟩

/-- Settles O29: `loadInto` gives each register up to Vx its byte. -/
theorem blockLoad : Obligations.BlockLoad := by
  intro x s
  have hexec := s.exec_loadRegs x
  obtain ⟨hpc, hI⟩ := State.end_of_block (s.loadInto_pc s.I _) (s.loadInto_I s.I _) (s.loadInto_cfg s.I _) x
  exact ⟨_, hexec, hpc, fun k hk => getV_loadRegs hexec hk, hI,
    (eachInstructionWritesOnlyItsTableRow _ _ _ hexec).mono fun p hp => hp.imp_right (Or.imp_left And.left)⟩

/-- R103: a block of one register, and a block that ends in memory, has an address for each register. -/
theorem clampA_block_ne {i : Nat} {x k j : Reg} (h : x = 0 ∨ i + x.val < 0x1000) (hkj : k < j) (hj : j ≤ x) :
    clampA (i + j.val) ≠ clampA (i + k.val) := by
  have hkj : k.val < j.val := hkj
  have hj : j.val ≤ x.val := hj
  obtain rfl | h := h
  · exact absurd (Nat.lt_of_lt_of_le hkj hj) (Nat.not_lt_zero _)
  · rw [clampA_of_lt (by omega), clampA_of_lt (by omega)]
    omega

/-- Settles O30: no register of the block is overwritten by a later one, so each is loaded from its own byte. -/
theorem blockRoundTrip : Obligations.BlockRoundTrip := by
  intro x s t q u hfits hstore hI hM hload k hk
  calc u.getV k
    _ = q.byteAt (clampA (q.I.toNat + k.val)) := getV_loadRegs hload hk
    _ = t.byteAt (clampA (s.I.toNat + k.val)) := by rw [hM, hI]
    _ = s.getV k := byteAt_storeRegs hstore hk fun _ => clampA_block_ne hfits

/-! The next fetch. -/

theorem State.fetchWord_div (s : State) : s.fetchWord.toNat / 0x100 = (s.byteAt (clampA s.pc.toNat)).toNat := by
  rw [← hiByte_toNat]
  exact congrArg _ (hiByte_wordOfBytes _ _)

theorem State.fetchWord_mod (s : State) : s.fetchWord.toNat % 0x100 = (s.byteAt (clampA (s.pc.toNat + 1))).toNat := by
  rw [← loByte_toNat]
  exact congrArg _ (loByte_wordOfBytes _ _)

/-- A byte that stands at an address of the next word is that byte of the fetched word. -/
theorem State.fetchWord_of_byteAt {t : State} {pc : Word} {a : Nat} {v : Nat} (hpc : t.pc = pc)
    (h : (t.byteAt a).toNat = v) :
    (a = clampA pc.toNat → t.fetchWord.toNat / 0x100 = v) ∧
    (a = clampA (pc.toNat + 1) → t.fetchWord.toNat % 0x100 = v) := by
  subst hpc h
  exact ⟨fun e => e ▸ t.fetchWord_div, fun e => e ▸ t.fetchWord_mod⟩

/-- Settles O31: execute leaves the byte in memory, the tick does not touch it, and the fetch reads it at pc + 2. -/
theorem storeIsSeenByTheNextFetch : Obligations.StoreIsSeenByTheNextFetch := by
  refine fun x s => ⟨fun hdec => ?registers, fun hdec => ?digits⟩
  case registers =>
    refine ⟨_, step_of_recognized hdec, fun k hk hlast => State.fetchWord_of_byteAt ?pc ?byte⟩
    case pc => simp
    case byte =>
      have hbyte := byteAt_storeRegs (s.clearOutputs.exec_storeRegs x) hk hlast
      exact congrArg BitVec.toNat hbyte
  case digits =>
    refine ⟨_, step_of_recognized hdec, fun p hp hlast => State.fetchWord_of_byteAt ?pc ?byte⟩
    case pc => simp
    case byte =>
      have hv := (s.getV x).isLt
      have hdigit : (bcdDigits (s.getV x))[p.1]? = some (trunc8 p.2) ∧ p.2 < 256 := by
        simp only [List.mem_cons, List.not_mem_nil, or_false] at hp
        obtain rfl | rfl | rfl := hp <;> exact ⟨rfl, by omega⟩
      have hbyte := byteAt_ldB (s.clearOutputs.exec_ldB x) hdigit.1 hlast
      exact (congrArg BitVec.toNat hbyte).trans (Nat.mod_eq_of_lt hdigit.2)

end Sys2Proof.Machine
end

section
/-! PROOFS. Sprite draw and the framebuffer's write port (spec/43_display.md R105 to R110). -/

namespace Sys2Proof.Machine

/-! What one DRW leaves in the framebuffer, in VF and in RP. -/

section
variable {x y : Reg} {n : Nibble} {s t : State} (h : exec (.drw x y n) s = .next t)
include h

theorem exec_drw_cell (k : Cell) : t.cell k =
    (s.cell k ^^ decide ((spriteToggles s (s.getV x).toNat (s.getV y).toNat n.toNat).count k.val % 2 = 1)) := by
  cases h
  exact s.cell_drawn _ _ n k

theorem exec_drw_vf_eq_one_iff :
    t.getV 15 = 1 ↔ TogglesCollide s (spriteToggles s (s.getV x).toNat (s.getV y).toNat n.toNat) := by
  refine ⟨fun hone => ?_, exec_drw_vf_of_collision h⟩
  by_contra hc
  exact absurd ((exec_drw_vf_of_no_collision h hc).symm.trans hone) (by decide)

theorem exec_drw_vf_eq_zero_iff :
    t.getV 15 = 0 ↔ ¬ TogglesCollide s (spriteToggles s (s.getV x).toNat (s.getV y).toNat n.toNat) := by
  refine ⟨fun hzero hc => ?_, exec_drw_vf_of_no_collision h⟩
  exact absurd ((exec_drw_vf_of_collision h hc).symm.trans hzero) (by decide)

end

/-- Settles O33: cells and flag are those of `State.drawn`, and the frame is DRW's row of the table. -/
theorem drawSpriteByXor : Obligations.DrawSpriteByXor := by
  intro x y n s
  obtain ⟨t, h⟩ := exec_next (.drw x y n) s
  have hframe := eachInstructionWritesOnlyItsTableRow _ s t h
  refine ⟨t, h, exec_drw_cell h, exec_drw_vf_eq_one_iff h, exec_drw_vf_eq_zero_iff h, exec_RP h, ?pc, ?frame⟩
  case pc => cases h; rfl
  case frame =>
    refine hframe.mono ?_
    rintro p (rfl | rfl | rfl | hcell)
    · exact .inr (.inr (.inl rfl))
    · exact .inl rfl
    · exact .inr (.inl rfl)
    · exact .inr (.inr (.inr hcell))

/-! Drawing twice. -/

/-- The toggles of a sprite depend on I and memory alone. -/
theorem spriteToggles_congr {s t : State} (hI : t.I = s.I) (hM : ∀ a, t.byteAt a = s.byteAt a) (x0 y0 n : Nat) :
    spriteToggles t x0 y0 n = spriteToggles s x0 y0 n := by
  simp only [spriteToggles, hI, hM]

/-- A cell that holds 1 and is toggled makes a collision at its first toggle. -/
theorem togglesCollide_of_mem {s : State} {toggles : List Nat} {k : Cell} (hk : k.val ∈ toggles)
    (hcell : s.cell k = true) : TogglesCollide s toggles := by
  obtain ⟨before, after, hsplit, hfirst⟩ := List.eq_append_cons_of_mem hk
  refine ⟨before, k, after, hsplit, ?_⟩
  rw [hcell, List.count_eq_zero_of_not_mem hfirst]
  rfl

/-- Settles O34: both draws toggle the same cells, since DRW writes neither I nor memory, and a cell toggled as often
again is as it was. -/
theorem drawingTwiceRestoresTheFramebuffer : Obligations.DrawingTwiceRestoresTheFramebuffer := by
  intro x y n s t u hfirst hsecond hx hy
  have hframe := eachInstructionWritesOnlyItsTableRow _ s t hfirst
  have htoggles : spriteToggles t (t.getV x).toNat (t.getV y).toNat n.toNat =
      spriteToggles s (s.getV x).toNat (s.getV y).toNat n.toNat := by
    rw [hx, hy]
    exact spriteToggles_congr (hframe .I (by simp)) (fun a => hframe (.byte a) (by simp)) _ _ _
  constructor
  · intro k
    rw [exec_drw_cell hsecond, htoggles, exec_drw_cell hfirst, Bool.xor_assoc, Bool.xor_self, Bool.xor_false]
  · rintro ⟨k, hk, hcell⟩
    exact exec_drw_vf_of_collision hsecond (togglesCollide_of_mem (htoggles ▸ hk) hcell)

/-! The write port. -/

/-- An instruction other than 00E0 and DXYN leaves every cell and RP as they were. -/
theorem exec_keeps_display {i : Instr} {s t : State} (h : exec i s = .next t) (hi : setsRP i = false) :
    (∀ k, t.cell k = s.cell k) ∧ t.RP = s.RP := by
  have hframe := eachInstructionWritesOnlyItsTableRow i s t h
  refine ⟨fun k => hframe (.cell k) ?_, by rw [exec_RP h, hi, Bool.false_or]⟩
  cases i with
  | cls | drw => exact absurd hi (by simp [setsRP])
  | _ => simp

theorem State.load_fields (s : State) (image : List Byte) : s.load image = { s with M := (s.load image).M } := by
  unfold State.load
  split
  · exact s.placeBytes_fields _ _
  · rfl

/-- Settles O35: a step's display is that of its instruction, and the host's moves write RP only to clear it. -/
theorem framebufferWritePortIsTheOnlyPath : Obligations.FramebufferWritePortIsTheOnlyPath := by
  refine ⟨fun s t h => ?steps, fun m s => ?moves⟩
  case steps =>
    obtain ⟨e, hdec, rfl⟩ | ⟨i, u, hdec, hexec, rfl⟩ := step_cases h
    · rw [hdec]
      exact ⟨fun _ => rfl, rfl⟩
    · rw [hdec]
      cases i with
      | cls => cases hexec; exact ⟨Framebuffer.cell_blank, rfl⟩
      | drw x y n =>
        have hcell := exec_drw_cell hexec
        exact ⟨hcell, exec_RP hexec⟩
      | _ =>
        have hkept := exec_keeps_display hexec rfl
        exact hkept
  case moves =>
    cases m with
    | load image =>
      have hload : s.hostMove (.load image) = { s with M := (s.load image).M } := s.load_fields image
      rw [hload]
      exact ⟨fun _ => rfl, id⟩
    | setKey | supplyRnd => exact ⟨fun _ => rfl, id⟩
    | clearRP => exact ⟨fun _ => rfl, fun hRP => nomatch hRP⟩

end Sys2Proof.Machine
end

section
/-! PROOFS. Reset (spec/10_state.md R36), the self-loop (spec/70_reset_and_hazards.md R148) and the configuration. -/

namespace Sys2Proof.Machine

/-! Reset. -/

/-- Settles O44: memory is empty, which is canonical, and SP is 0. -/
theorem resetHasTheInvariant : Obligations.ResetHasTheInvariant := by
  have h (c : Config) : Inv (State.resetWith c) := ⟨Memory.wf_nil _, fun _ => Nat.zero_lt_succ 15⟩
  exact ⟨h defaultConfig, h⟩

theorem resetByte_outside {base a : Nat} (h : a < base ∨ base + 80 ≤ a) : resetByte base a = 0 :=
  if_neg (by omega)

theorem resetByte_font {base a : Nat} (h : a < 80) : resetByte base (base + a) = fontBytes.getD a 0 := by
  rw [resetByte, if_pos (by omega), Nat.add_sub_cancel_left]

/-- Settles O45: an unlisted byte reads as `resetByte`, which is the font at `FONT_BASE` and 0 elsewhere. -/
theorem resetLeavesTheStatedValues : Obligations.ResetLeavesTheStatedValues := by
  intro c s
  refine ⟨fun r => ?regs, rfl, rfl, rfl, fun j => ?stack, rfl, rfl, Framebuffer.cell_blank, fun k => ?keys, rfl, rfl,
    fun a => resetByte_outside, fun a ha => ?high, fun a => resetByte_font⟩
  case regs => exact Vector.getElem_replicate _
  case stack => exact Vector.getElem_replicate _
  case keys => exact BitVec.getLsbD_zero
  case high =>
    have hbase := c.fontBase.isLt
    exact resetByte_outside (.inr (by omega))

/-! The self-loop. -/

/-- The word `0x1000 | pc` is a JP to `pc`. -/
theorem encode_jp_of_le {pc : Word} (h : pc.toNat ≤ 0x0FFF) : encode (.jp (pc.setWidth 12)) = 0x1000 ||| pc := by
  have hor : 1 <<< 12 + pc.toNat = 1 <<< 12 ||| pc.toNat := Nat.shiftLeft_add_eq_or_of_lt (by omega) 1
  apply BitVec.eq_of_toNat_eq
  rw [encode, wordNNN_toNat, BitVec.toNat_setWidth, BitVec.toNat_or, Nat.mod_eq_of_lt (by omega)]
  exact hor

theorem zext16_setWidth {pc : Word} (h : pc.toNat ≤ 0x0FFF) : zext16 (pc.setWidth 12) = pc := by
  apply BitVec.eq_of_toNat_eq
  rw [zext16_toNat, BitVec.toNat_setWidth, Nat.mod_eq_of_lt (by omega)]

/-- At a self-loop a step is the tick alone. -/
theorem step_of_selfLoop {s : State} (hpc : s.pc.toNat ≤ 0x0FFF) (hword : s.fetchWord = 0x1000 ||| s.pc) :
    step s = .next s.clearOutputs.tick := by
  have hdec : decodeWord s.fetchWord = .ok (.jp (s.pc.setWidth 12)) := by
    rw [hword, ← encode_jp_of_le hpc, decodeWord_encode rfl]
  have hexec : exec (.jp (s.pc.setWidth 12)) s.clearOutputs = .next s.clearOutputs := by
    rw [exec, execJp, zext16_setWidth hpc]
    rfl
  rw [step_of_recognized hdec, hexec]

/-- Settles O47: the step is the tick alone, which touches neither pc nor memory. -/
theorem selfLoopRepeatsWhileTheTimersRun : Obligations.SelfLoopRepeatsWhileTheTimersRun := by
  intro s hpc hword
  refine ⟨_, step_of_selfLoop hpc hword, rfl, rfl, rfl, tickTimer_toNat s.DT, tickTimer_toNat s.ST, ?_⟩
  refine (s.onlyChanges_clearOutputs.trans (State.onlyChanges_tick _)).mono ?_
  simp only [List.mem_cons, List.not_mem_nil, or_false]
  tauto

end Sys2Proof.Machine
end

section
/-! PROOFS. The moves of the host (spec/20_memory.md R50 to R55; spec/70_reset_and_hazards.md R149). -/

namespace Sys2Proof.Machine

/-! The loader. -/

theorem State.onlyChanges_placeBytes (s : State) (a : Nat) (bs : List Byte) :
    OnlyChanges (fun p => ∃ c, a ≤ c ∧ c < a + bs.length ∧ p = .byte c) s (s.placeBytes a bs) := by
  intro p hp
  cases p with
  | byte c =>
    refine (s.byteAt_placeBytes a c bs).trans ?_
    split_ifs with hc
    · have hout : bs.length ≤ c - a := by
        by_contra hin
        exact hp ⟨c, hc, by omega, rfl⟩
      rw [List.getElem?_eq_none hout, Option.getD_none]
    · rfl
  | _ => rw [s.placeBytes_fields]; rfl

theorem State.byteAt_placeBytes_inside (s : State) (a : Nat) {k : Nat} {bs : List Byte} {b : Byte}
    (h : bs[k]? = some b) : (s.placeBytes a bs).byteAt (a + k) = b := by
  rw [State.byteAt_placeBytes, if_pos (Nat.le_add_right a k), Nat.add_sub_cancel_left, h, Option.getD_some]

/-- R51: an image is taken when it fits, and any image under `TRUNCATE`. -/
theorem State.load_of_accepted (s : State) {image : List Byte}
    (h : image.length ≤ maxImage ∨ s.cfg.loadOversize = .truncate) :
    s.load image = s.placeBytes programBase (image.take maxImage) := by
  have hanswer : loadAnswer s.cfg.loadOversize image.length = .accepted := by
    unfold loadAnswer
    cases hpol : s.cfg.loadOversize with
    | truncate => rfl
    | reject => exact if_pos (h.resolve_right (by simp [hpol]))
  rw [State.load, hanswer]

theorem State.load_of_refused (s : State) {image : List Byte} (hlen : maxImage < image.length)
    (hpol : s.cfg.loadOversize = .reject) : s.load image = s := by
  have hanswer : loadAnswer s.cfg.loadOversize image.length = .refused := by
    rw [hpol]
    exact if_neg (Nat.not_le.mpr hlen)
  rw [State.load, hanswer]

/-- A load places at most 3584 bytes at 0x200, or nothing. -/
theorem State.load_cases (s : State) (image : List Byte) :
    s.load image = s.placeBytes programBase (image.take maxImage) ∨ s.load image = s := by
  unfold State.load
  split
  · exact .inl rfl
  · exact .inr rfl

/-- Settles O49: the image taken is `placeBytes` of its first 3584 bytes, and one refused changes nothing. -/
theorem loaderPlacesTheImage : Obligations.LoaderPlacesTheImage := by
  refine fun image s => ⟨fun htaken => ?taken, fun hlen hpol => s.load_of_refused hlen hpol⟩
  rw [s.load_of_accepted htaken]
  refine ⟨fun k b hk hb => ?inside, fun a ha => ?outside⟩
  case inside =>
    have hcut : (image.take maxImage)[k]? = some b := by
      rw [List.getElem?_take_of_lt (show k < maxImage from hk), hb]
    exact s.byteAt_placeBytes_inside programBase hcut
  case outside =>
    refine s.onlyChanges_placeBytes programBase _ (.byte a) ?_
    rintro ⟨c, hlow, hhigh, hac⟩
    obtain rfl := Part.byte.inj hac
    rw [List.length_take] at hhigh
    simp only [programBase, maxImage, memSize] at hlow hhigh
    omega

/-- Settles O48: the loader places bytes from 0x200 on, and each other port writes one field. -/
theorem theHostWritesNothingElse : Obligations.TheHostWritesNothingElse := by
  intro m s
  cases m with
  | load image =>
    have hload : s.hostMove (.load image) = s.load image := rfl
    rw [hload]
    obtain h | h := s.load_cases image
    · rw [h]
      refine (s.onlyChanges_placeBytes programBase (image.take maxImage)).mono ?_
      rintro p ⟨c, hlow, hhigh, rfl⟩
      rw [List.length_take] at hhigh
      simp only [programBase, maxImage, memSize] at hlow hhigh
      exact ⟨c, hlow, by omega, rfl⟩
    · rw [h]
      exact .refl _ s
  | setKey k v =>
    intro p hp
    cases p with
    | key j => exact (s.held_setKey k j v).trans (if_neg fun e => hp (congrArg Part.key e))
    | _ => rfl
  | clearRP =>
    intro p hp
    cases p with
    | RP => exact absurd rfl hp
    | _ => rfl
  | supplyRnd b =>
    intro p hp
    cases p with
    | rndIn => exact absurd rfl hp
    | _ => rfl

/-- Settles O43: a load writes below 0x1000 and keeps the form; the other moves touch neither memory nor SP. -/
theorem everyHostMoveKeepsTheInvariant : Obligations.EveryHostMoveKeepsTheInvariant := by
  intro m s hinv
  cases m with
  | load image =>
    have hload : s.hostMove (.load image) = s.load image := rfl
    rw [hload]
    obtain h | h := s.load_cases image
    · obtain ⟨hwf, hsp⟩ := hinv
      have hplaced := s.wf_placeBytes programBase (image.take maxImage) (by
        rw [List.length_take]
        simp only [programBase, maxImage, memSize]
        omega) hwf
      rw [h, State.placeBytes_fields]
      exact ⟨hplaced, hsp⟩
    · rwa [h]
  | setKey | clearRP | supplyRnd => exact hinv

/-- Settles O46: `exec_cfg` for a step, and the configuration's part of the frame for a host move. -/
theorem configurationNeverChanges : Obligations.ConfigurationNeverChanges :=
  ⟨fun _ _ => step_cfg, fun m s => theHostWritesNothingElse m s .cfg (by cases m <;> simp)⟩

/-! The keypad. -/

theorem Key_eq_of_held {s t : State} (h : ∀ k : Reg, s.held k = t.held k) : s.Key = t.Key :=
  BitVec.eq_of_getLsbD_eq fun k hk => h ⟨k, hk⟩

/-- Settles O50: `held_setKey` for each key; after press and release every key is as it was. -/
theorem keypadPortSetsOneBit : Obligations.KeypadPortSetsOneBit := by
  refine fun k v s => ⟨?same, fun j hj => ?other, fun hk => ?released⟩
  case same => exact (s.held_setKey k k v).trans (if_pos rfl)
  case other => exact (s.held_setKey k j v).trans (if_neg hj)
  case released =>
    have hkey : ((s.setKey k true).setKey k false).Key = s.Key := by
      refine Key_eq_of_held fun j => ?_
      rw [State.held_setKey, State.held_setKey]
      split_ifs with hj
      · rw [hj, hk]
      · rfl
    calc (s.setKey k true).setKey k false
      _ = { s with Key := ((s.setKey k true).setKey k false).Key } := rfl
      _ = s := by rw [hkey]

end Sys2Proof.Machine
end

section
/-! PROOFS. What the instructions do not read (spec/44_keypad_timers.md R119; spec/10_state.md R38): replacing ST, the
keypad latch or the random input before an instruction and replacing it after give the same outcome, but for the
instructions whose business that part is. -/

namespace Sys2Proof.Machine

/-- What to put in the place of the parts that few instructions read. -/
structure Replacement where
  ST : Byte → Byte
  Key : BitVec 16 → BitVec 16
  rndIn : List Byte → List Byte
  draws : Nat → Nat

/-- The machine with those parts replaced. -/
def State.replace (s : State) (f : Replacement) : State :=
  { s with ST := f.ST s.ST, Key := f.Key s.Key, rndIn := f.rndIn s.rndIn, draws := f.draws s.draws }

/-- FX18 writes ST (R118). -/
def writesST (i : Instr) : Bool :=
  match i with
  | .ldSTVx _ => true
  | _ => false

/-- FX0A, EX9E and EXA1 read the latch (R119). -/
def readsKey (i : Instr) : Bool :=
  match i with
  | .ldVxK _ => true
  | .skp _ => true
  | .sknp _ => true
  | _ => false

/-- CXNN samples the random input (R55). -/
def drawsRnd (i : Instr) : Bool :=
  match i with
  | .rnd _ _ => true
  | _ => false

section
variable (s : State) (f : Replacement)

theorem State.replace_skipIf (c : Bool) : (s.replace f).skipIf c = (s.skipIf c).replace f := by
  cases c <;> rfl

theorem State.replace_blockIncrement (i : Word) (x : Reg) :
    (s.replace f).blockIncrement i x = (s.blockIncrement i x).replace f := by
  rw [State.blockIncrement, State.blockIncrement, apply_ite (State.replace · f)]
  rfl

theorem State.replace_storeBytes (i : Word) (k : Nat) (bs : List Byte) :
    (s.replace f).storeBytes i k bs = (s.storeBytes i k bs).replace f := by
  induction bs generalizing s k with
  | nil => rfl
  | cons v _ ih => exact ih (s.memWrite (i.toNat + k) v) (k + 1)

theorem State.replace_loadInto (i : Word) (rs : List Reg) :
    (s.replace f).loadInto i rs = (s.loadInto i rs).replace f := by
  induction rs generalizing s with
  | nil => rfl
  | cons r _ ih => exact ih (s.setV r (s.memRead (i.toNat + r.val)))

theorem State.replace_rndTaken (hq : f.rndIn = id) (hd : f.draws = id) :
    (s.replace f).rndTaken = s.rndTaken.replace f := by
  obtain ⟨ST, Key, rndIn, draws⟩ := f
  obtain rfl : rndIn = id := hq
  obtain rfl : draws = id := hd
  obtain ⟨_, _, queue, _, _, _⟩ := s
  cases queue <;> rfl

theorem State.replace_rndByte (hq : f.rndIn = id) (hd : f.draws = id) : (s.replace f).rndByte = s.rndByte := by
  obtain ⟨ST, Key, rndIn, draws⟩ := f
  obtain rfl : rndIn = id := hq
  obtain rfl : draws = id := hd
  rfl

theorem State.replace_held (hk : f.Key = id) (k : Reg) : (s.replace f).held k = s.held k := by
  obtain ⟨ST, Key, rndIn, draws⟩ := f
  obtain rfl : Key = id := hk
  rfl

theorem State.replace_lowestHeld (hk : f.Key = id) : (s.replace f).lowestHeld = s.lowestHeld := by
  simp only [State.lowestHeld, State.replace_held s f hk]
  rfl

theorem State.replace_setST (hst : f.ST = id) (v : Byte) : (s.replace f).setST v = (s.setST v).replace f := by
  obtain ⟨ST, Key, rndIn, draws⟩ := f
  obtain rfl : ST = id := hst
  rfl

/-- Every instruction does the same whatever stands in the parts it does not use. -/
theorem exec_replace (i : Instr) (hst : writesST i = true → f.ST = id) (hkey : readsKey i = true → f.Key = id)
    (hrnd : drawsRnd i = true → f.rndIn = id ∧ f.draws = id) :
    exec i (s.replace f) = mapNext (·.replace f) (exec i s) := by
  cases i with
  | call =>
    rw [exec, execCall, exec, execCall, apply_ite (mapNext _)]
    rfl
  | ret =>
    rw [exec, execRet, exec, execRet, apply_ite (mapNext _)]
    rfl
  | seImm | sneImm | seReg | sneReg => exact congrArg Host.Outcome.next (s.replace_skipIf f _)
  | skp | sknp =>
    simp only [exec, execSkp, execSknp, State.replace_held s f (hkey rfl), State.replace_skipIf]
    rfl
  | ldVxK =>
    rw [exec, execLdVxK, State.replace_lowestHeld s f (hkey rfl), exec, execLdVxK]
    cases s.lowestHeld <;> rfl
  | ldSTVx =>
    rw [exec, execLdSTVx, State.replace_setST s f (hst rfl)]
    rfl
  | rnd =>
    obtain ⟨hq, hd⟩ := hrnd rfl
    rw [exec, execRnd, State.replace_rndTaken s f hq hd, State.replace_rndByte s f hq hd]
    rfl
  | ldB =>
    rw [exec, execLdB, State.replace_storeBytes]
    rfl
  | storeRegs =>
    rw [exec, execStoreRegs, State.replace_storeBytes, State.replace_blockIncrement]
    rfl
  | loadRegs =>
    rw [exec, execLoadRegs, State.replace_loadInto, State.replace_blockIncrement]
    rfl
  | _ => rfl

end

/-! ST and the keypad. -/

/-- No instruction writes the latch: no key is in its row of the table. -/
theorem exec_Key {i : Instr} {s t : State} (h : exec i s = .next t) : t.Key = s.Key := by
  refine Key_eq_of_held fun k => ?_
  have hkey := eachInstructionWritesOnlyItsTableRow i s t h (.key k)
  cases i <;> exact hkey (by simp)

/-- Settles O40: `exec_replace` for ST, which FX18 overwrites, and for the latch. -/
theorem soundTimerIsUnreadAndKeypadUnwritten : Obligations.SoundTimerIsUnreadAndKeypadUnwritten := by
  refine fun i s t h => ⟨exec_Key h, fun v => ?st, fun q hi => ?key⟩
  case st =>
    cases i with
    | ldSTVx x => cases h; rfl
    | _ =>
      refine (exec_replace s ⟨fun _ => v, id, id, id⟩ _ (by simp [writesST]) (fun _ => rfl) (fun _ => ⟨rfl, rfl⟩)).trans ?_
      rw [h]
      rfl
  case key =>
    have hunread : readsKey i = false := by
      cases i with
      | ldVxK x => exact absurd rfl (hi x).1
      | skp x => exact absurd rfl (hi x).2.1
      | sknp x => exact absurd rfl (hi x).2.2
      | _ => rfl
    refine (exec_replace s ⟨id, fun _ => q, id, id⟩ i (fun _ => rfl) (by simp [hunread])
      (fun _ => ⟨rfl, rfl⟩)).trans ?_
    rw [h]
    rfl

/-! The step as a function (R38). -/

/-- Two machines that agree on all that a step may depend on but the random input. -/
structure AgreeButRnd (s s' : State) : Prop where
  arch : s.toArch = s'.toArch
  cfg : s.cfg = s'.cfg
  report : s.report = s'.report
  beep : s.beep = s'.beep

theorem AgreeButRnd.eq_replace {s s' : State} (h : AgreeButRnd s s') :
    s' = s.replace ⟨id, id, fun _ => s'.rndIn, fun _ => s'.draws⟩ := by
  obtain ⟨arch, cfg, rndIn, draws, report, beep⟩ := s
  obtain ⟨arch', cfg', rndIn', draws', report', beep'⟩ := s'
  obtain ⟨rfl, rfl, rfl, rfl⟩ := h
  rfl

theorem AgreeButRnd.rndTaken {s s' : State} (h : AgreeButRnd s s') : AgreeButRnd s.rndTaken s'.rndTaken := by
  have harch (u : State) : u.rndTaken.toArch = u.toArch := by
    unfold State.rndTaken
    split <;> rfl
  constructor
  · rw [harch, harch, h.arch]
  · rw [State.rndTaken_cfg, State.rndTaken_cfg, h.cfg]
  · rw [State.rndTaken_report, State.rndTaken_report, h.report]
  · rw [State.rndTaken_beep, State.rndTaken_beep, h.beep]

theorem AgreeButRnd.setV_advance {s s' : State} (h : AgreeButRnd s s') (x : Reg) (v : Byte) :
    AgreeButRnd (s.setV x v).advance (s'.setV x v).advance := by
  rw [h.eq_replace]
  exact ⟨rfl, rfl, rfl, rfl⟩

/-- R95: CXNN depends on the random input only through the byte it samples, and no other instruction depends on it. -/
theorem AgreeButRnd.exec {i : Instr} {s s' t t' : State} (h : AgreeButRnd s s') (hrnd : s.rndByte = s'.rndByte)
    (ht : exec i s = .next t) (ht' : exec i s' = .next t') : AgreeButRnd t t' := by
  cases i with
  | rnd x nn =>
    cases ht
    cases ht'
    rw [hrnd]
    exact h.rndTaken.setV_advance x _
  | _ =>
    rw [h.eq_replace, exec_replace _ _ _ (fun _ => rfl) (fun _ => rfl) (by simp [drawsRnd]), ht] at ht'
    cases ht'
    exact ⟨rfl, rfl, rfl, rfl⟩

theorem AgreeButRnd.tick {s s' : State} (h : AgreeButRnd s s') : AgreeButRnd s.tick s'.tick := by
  rw [h.eq_replace]
  exact ⟨rfl, rfl, rfl, rfl⟩

/-- Steps from one tuple, configuration and random byte agree in the tuple and the outputs. -/
theorem step_agree {s s' t t' : State} (harch : s.toArch = s'.toArch) (hcfg : s.cfg = s'.cfg)
    (hrnd : s.rndByte = s'.rndByte) (h : step s = .next t) (h' : step s' = .next t') : AgreeButRnd t t' := by
  have hclear : AgreeButRnd s.clearOutputs s'.clearOutputs := ⟨harch, hcfg, rfl, rfl⟩
  have hword : s'.fetchWord = s.fetchWord := by
    have hcleared : s'.clearOutputs.fetchWord = s.clearOutputs.fetchWord := by rw [hclear.eq_replace]; rfl
    exact hcleared
  obtain ⟨e, hdec, rfl⟩ | ⟨i, u, hdec, hexec, rfl⟩ := step_cases h
  · rw [step_of_unrecognized (hword ▸ hdec), hclear.eq_replace, hword] at h'
    cases h'
    exact ⟨rfl, rfl, rfl, rfl⟩
  · obtain ⟨u', hexec'⟩ := exec_next i s'.clearOutputs
    rw [step_of_recognized (hword ▸ hdec), hexec'] at h'
    cases h'
    exact (hclear.exec hrnd hexec hexec').tick

theorem AgreeButRnd.outputs {s s' : State} (h : AgreeButRnd s s') : s.outputs = s'.outputs := by
  rw [State.outputs, State.outputs, h.report, h.beep]

/-- Settles O13: `step_agree`, for two states, and for a state and the machine that R38's function builds. -/
theorem stepIsAFunctionOfStateConfigAndInput : Obligations.StepIsAFunctionOfStateConfigAndInput := by
  constructor
  · intro s s' harch hcfg hrnd
    obtain ⟨t, h⟩ := step_next s
    obtain ⟨t', h'⟩ := step_next s'
    have hagree := step_agree harch hcfg hrnd h h'
    exact ⟨t, t', h, h', hagree.arch, hagree.outputs⟩
  · intro s
    obtain ⟨t, h⟩ := step_next s
    obtain ⟨t', h'⟩ := step_next (State.ofParts s.cfg s.toArch ⟨s.rndByte⟩)
    have hagree := step_agree (s := s) (s' := State.ofParts s.cfg s.toArch ⟨s.rndByte⟩) rfl rfl rfl h h'
    refine ⟨t, h, ?_⟩
    rw [stepFn, h', hagree.arch, hagree.outputs]

end Sys2Proof.Machine
end
